-- ==== Sys2Proof/Word.lean ====
section
/-! DEFINITION. The word types of the FineOffset TX core and the small types of its pin (spec/00_scope.md R9 to R13). -/

namespace Sys2Proof

/-- A 40-bit command word `CW` (spec/30_encoding.md R40). -/
abbrev CmdWord := BitVec 40

/-- An 8-bit field: `DEVID`, `HUM`, `OP` (spec/10_state.md R15, R16; spec/30_encoding.md R40). -/
abbrev Byte := BitVec 8

/-- The 32-bit operand `OPD` of a command word, and a binary32 pattern (spec/30_encoding.md R40, R43). -/
abbrev Operand := BitVec 32

/-- The 16-bit temperature word `TEMPW` (spec/30_encoding.md R44). -/
abbrev TempWord := BitVec 16

/-- The 52-bit frame (spec/30_encoding.md R45). -/
abbrev Frame := BitVec 52

/-- The level of the pin (spec/10_state.md R21). -/
inductive Level where
  | low
  | high
deriving DecidableEq, Repr, Inhabited

/-- The direction of the pin (spec/10_state.md R20). -/
inductive PinDir where
  | input
  | output
deriving DecidableEq, Repr

/-- `PIN`: the identifier of the output line. It is opaque, so nothing computes with the number in it
(spec/10_state.md R19; log 21). -/
structure PinId where
  ident : Nat
deriving DecidableEq, Repr

/-- One element `(level, duration)` of a pin waveform, the duration in microseconds
(spec/00_scope.md R12, R13). -/
structure Segment where
  level : Level
  dur   : Nat
deriving DecidableEq, Repr

end Sys2Proof
end

