-- ==== Sys2Proof/Syntax.lean ====
section
/-! DEFINITION. The commands of the core: one constructor per row of spec/opcode_table.json. -/

namespace Sys2Proof

/-- A command with its operand. The operand types have exactly the widths of spec/30_encoding.md R42, so an operand
that does not fit cannot be written. -/
inductive Instr where
  | setid   (id : Byte)        -- SETID   (spec/40_encoder.md R53)
  | sethum  (h : Byte)         -- SETHUM  (spec/40_encoder.md R54)
  | settemp (t : Operand)      -- SETTEMP (spec/40_encoder.md R55)
  | send                       -- SEND    (spec/41_transmitter.md R61)
deriving DecidableEq, Repr

end Sys2Proof
end

