-- ==== Sys2Proof/Decode.lean ====
section
/-! DEFINITION. The decoder of command words, total and rejecting by name, and the encoder
(spec/30_encoding.md R40 to R42, R50). -/

namespace Sys2Proof

/-- Why a command word is illegal (spec/30_encoding.md R50). Either way the core raises `Fault(IllegalCommand)`. -/
inductive DecodeReject where
  | undefinedOpcode  (op : Byte)   -- `OP` is 0x00 or 0x05 to 0xFF
  | reservedBitSet   (op : Byte)   -- a SETID, SETHUM or SEND word with a reserved operand bit at 1
deriving DecidableEq, Repr

/-- `OP`, bits 39:32 (spec/30_encoding.md R40). -/
def opcodeField (cw : CmdWord) : Byte := cw.extractLsb' 32 8

/-- `OPD`, bits 31:0 (spec/30_encoding.md R40). -/
def operandField (cw : CmdWord) : Operand := cw.extractLsb' 0 32

/-- `OPD[31:8]`, reserved in SETID, SETHUM and SEND (spec/30_encoding.md R42). -/
def operandHigh (cw : CmdWord) : BitVec 24 := cw.extractLsb' 8 24

/-- `OPD[7:0]`, the operand of SETID and SETHUM (spec/30_encoding.md R42). -/
def operandLow (cw : CmdWord) : Byte := cw.extractLsb' 0 8

/-- The decoder. "Decoding looks at `OP` alone, then checks the reserved operand bits"
(spec/30_encoding.md R41, R42). -/
def decode (cw : CmdWord) : Except DecodeReject Instr :=
  let op := opcodeField cw
  if op = 0x01#8 then
    if operandHigh cw = 0#24 then .ok (.setid (operandLow cw)) else .error (.reservedBitSet op)
  else if op = 0x02#8 then
    if operandHigh cw = 0#24 then .ok (.sethum (operandLow cw)) else .error (.reservedBitSet op)
  else if op = 0x03#8 then
    .ok (.settemp (operandField cw))
  else if op = 0x04#8 then
    if operandField cw = 0#32 then .ok .send else .error (.reservedBitSet op)
  else .error (.undefinedOpcode op)

/-- The word of a command: `OP`, then the reserved zeros, then the operand (spec/30_encoding.md R41, R42, R51). -/
def encode : Instr → CmdWord
  | .setid id   => 0x01#8 ++ 0#24 ++ id
  | .sethum h   => 0x02#8 ++ 0#24 ++ h
  | .settemp t  => 0x03#8 ++ t
  | .send       => 0x04#8 ++ 0#32

/-- The instruction the decoder reads from the word whose bits are `w`. The core has one word length, 40 bits, and a
command word is one parallel word, so bit `i` of `w` is `CW[i]` (spec/30_encoding.md R40, spec/20_memory.md R31;
log 19). A `w` or an `nbits` beyond 40 bits is no command word. -/
def decodeTableWord (nbits w : Nat) : Option Instr :=
  if nbits ≤ 40 ∧ w < 2 ^ nbits then (decode (BitVec.ofNat 40 w)).toOption else none

end Sys2Proof
end

