-- ==== Sys2Proof/Config.lean ====
section
/-! DEFINITION. The implementation parameters of spec/00_scope.md R8, the construction parameters that come with a
reset, and the draws: the values that no rule constrains (spec/00_scope.md R11). -/

namespace Sys2Proof

/-- `TEMP_PRODUCT`: how SETTEMP computes `|value| × 10` (spec/00_scope.md R8). -/
inductive TempProduct where
  | exact          -- spec/40_encoder.md R57, the default
  | binary32Rne    -- spec/40_encoder.md R58
deriving DecidableEq, Repr

/-- The parameters that are fixed for an instance and that no reset gives again (spec/00_scope.md R8).
They stand in State, where no step writes them, so that a statement over all states is a statement over all
parameters (log 3). -/
structure Config where
  pulseLength : Nat
  repeatMax   : Nat
  tempProduct : TempProduct
deriving DecidableEq, Repr

/-- The construction parameters that come with `RST` (spec/70_reset_and_hazards.md R82, R83): `N` is DOC's `int`,
so a negative count can be presented (and is refused). -/
structure Construct where
  pin : PinId
  id0 : Byte
  n   : Int
deriving DecidableEq, Repr

/-- The default `PULSE_LENGTH`: "positive integer; default 500" (spec/00_scope.md R8). -/
def Config.defaultPulseLength : Nat := 500

/-- An uninterpreted natural number behind `openRepeatMax` (log 5). -/
opaque Config.repeatMaxLessOne : Nat

/-- `REPEAT_MAX` of the instance that `State.reset` shows: "OPEN; a positive integer" (spec/00_scope.md R8; log 5). -/
def Config.openRepeatMax : Nat := Config.repeatMaxLessOne + 1

/-- The parameters of the instance that `State.reset` shows: the spec's defaults where it gives one (log 3, log 5). -/
def Config.default : Config :=
  { pulseLength := Config.defaultPulseLength, repeatMax := Config.openRepeatMax, tempProduct := .exact }

/-- `INIT_LEVEL` of the reset that takes draw number `k` (spec/10_state.md R21, spec/00_scope.md R8; log 7). -/
opaque Config.drawInitLevel (k : Nat) : Level

/-- The sign bit `S` that SETTEMP draws as draw number `k` (spec/40_encoder.md R59; log 9). -/
opaque Config.drawSign (k : Nat) : BitVec 1

/-- The magnitude `M` that SETTEMP draws as draw number `k` (spec/40_encoder.md R59; log 9). -/
opaque Config.drawMagnitude (k : Nat) : BitVec 11

/-- The pin level after a fault during a SEND, draw number `k` (spec/60_exceptions.md R72; log 10). -/
opaque Config.drawFaultedLevel (k : Nat) : Level

/-- `BUSY` after a fault during a SEND, draw number `k` (spec/60_exceptions.md R72; log 10). -/
opaque Config.drawFaultedBusy (k : Nat) : Bool

end Sys2Proof
end

