-- ==== Sys2Proof/Machine/Operands.lean ====
section
/-! DEFINITION. What the encoder computes from an operand: the humidity clamp (spec/40_encoder.md R54), binary32
(spec/30_encoding.md R43), the sign and the tenths of a temperature (spec/40_encoder.md R56 to R58), and the
temperature word (spec/30_encoding.md R44). -/

namespace Sys2Proof.Machine

/-- `min(h, 100)` (spec/40_encoder.md R54). -/
def clampHumidity (h : Byte) : Byte := if h.toNat > 100 then 100#8 else h

/-! ### binary32 (spec/30_encoding.md R43) -/

/-- `ts`: the sign, bit 31. -/
def floatSign (t : Operand) : BitVec 1 := t.extractLsb' 31 1

/-- `te`: the biased exponent, bits 30:23. -/
def floatExp (t : Operand) : BitVec 8 := t.extractLsb' 23 8

/-- `tf`: the fraction, bits 22:0. -/
def floatFrac (t : Operand) : BitVec 23 := t.extractLsb' 0 23

/-- The pattern is finite: neither an infinity nor a NaN. -/
def floatFinite (t : Operand) : Bool := floatExp t != 0xFF#8

/-- `sig`: the integer significand of a finite pattern (spec/40_encoder.md R57). -/
def floatSig (t : Operand) : Nat :=
  if floatExp t = 0 then (floatFrac t).toNat else 2 ^ 23 + (floatFrac t).toNat

/-- `e2`: the exponent of two that goes with `floatSig` (spec/40_encoder.md R57). -/
def floatE2 (t : Operand) : Int :=
  if floatExp t = 0 then -149 else (floatExp t).toNat - 150

/-- The value of a binary32 pattern (spec/30_encoding.md R43). -/
inductive FloatValue where
  | infinity (sign : BitVec 1)
  | nan
  | finite   (q : ℚ)
deriving DecidableEq, Repr

/-- The value of a pattern: infinity, NaN, or `(-1)^ts × sig × 2^e2` (spec/30_encoding.md R43). -/
def floatValue (t : Operand) : FloatValue :=
  if floatFinite t then .finite ((-1) ^ (floatSign t).toNat * (floatSig t : ℚ) * 2 ^ floatE2 t)
  else if floatFrac t = 0 then .infinity (floatSign t)
  else .nan

/-! ### Rounding to binary32 (spec/40_encoder.md R58)

A positive real is given as a fraction `num / den` of naturals. -/

/-- `roundTiesToEven(num / den)`: "the integer nearest, the even one of two at a tie" (spec/40_encoder.md R58). -/
def roundTiesToEven (num den : Nat) : Nat :=
  let n := num / den
  let r := num % den
  if 2 * r < den then n
  else if 2 * r > den then n + 1
  else if n % 2 = 0 then n else n + 1

/-- `num / den × 2^(-e)`, again as a fraction. -/
def scaleDown (num den : Nat) (e : Int) : Nat × Nat := (num * 2 ^ (-e).toNat, den * 2 ^ e.toNat)

/-- `floor(log2(num / den))` for a positive `num` and `den`. -/
def floorLog2 (num den : Nat) : Int :=
  let e : Int := (Nat.log2 num : Int) - Nat.log2 den
  let p := scaleDown num den e
  if p.1 < p.2 then e - 1 else e

/-- The exponent of two of `quantum = 2^(max(E, -126) - 23)` with `E = floor(log2(num / den))`
(spec/40_encoder.md R58). -/
def quantumExp (num den : Nat) : Int := max (floorLog2 num den) (-126) - 23

/-- A magnitude rounded to binary32: `q = n × 2^e`, or the overflow to infinity (spec/40_encoder.md R58). -/
inductive Rounded where
  | finite (n : Nat) (e : Int)
  | overflow
deriving DecidableEq, Repr

/-- `q = roundTiesToEven(p / quantum) × quantum` for `p = num / den`, and OVERFLOW when `q ≥ 2^128`
(spec/40_encoder.md R58); the comparison is made on naturals. -/
def roundBinary32 (num den : Nat) : Rounded :=
  if num = 0 then .finite 0 (-149)
  else
    let e := quantumExp num den
    let p := scaleDown num den e
    let n := roundTiesToEven p.1 p.2
    if n * 2 ^ e.toNat ≥ 2 ^ 128 * 2 ^ (-e).toNat then .overflow else .finite n e

/-- `floor(n × 2^e)`: a left shift, or a floor division (spec/40_encoder.md R57, R58). -/
def floorScaled (n : Nat) (e : Int) : Nat := if 0 ≤ e then n <<< e.toNat else n >>> (-e).toNat

/-! ### The encoder's scaling -/

/-- `NEG(t)`: 1 exactly when the value is less than zero; −0.0 is not (spec/40_encoder.md R56). -/
def negFlag (t : Operand) : BitVec 1 :=
  if floatSign t = 1 ∧ t.extractLsb' 0 31 ≠ 0 then 1 else 0

/-- `TENTHS(t)` under `EXACT`, for a finite `t` (spec/40_encoder.md R57). -/
def tenthsExact (t : Operand) : Nat := floorScaled (10 * floatSig t) (floatE2 t)

/-- The exact product `p = 10 × sig × 2^e2` as a fraction (spec/40_encoder.md R58). -/
def product (t : Operand) : Nat × Nat := scaleDown (10 * floatSig t) 1 (-floatE2 t)

/-- `TENTHS(t)` under `BINARY32_RNE`, for a finite `t`; none is OVERFLOW (spec/40_encoder.md R58). -/
def tenthsRne (t : Operand) : Option Nat :=
  match roundBinary32 (product t).1 (product t).2 with
  | .finite n e => some (floorScaled n e)
  | .overflow   => none

/-- `TENTHS(t)` for a finite `t`, by the parameter `TEMP_PRODUCT`; none is OVERFLOW (spec/40_encoder.md R55). -/
def tenths : TempProduct → Operand → Option Nat
  | .exact, t       => some (tenthsExact t)
  | .binary32Rne, t => tenthsRne t

/-- `S` and `M` of SETTEMP where a rule gives them: the sign flag and `T mod 2048`. None where both are draws
(spec/40_encoder.md R55, R59). -/
def encodeTemperature (mode : TempProduct) (t : Operand) : Option (BitVec 1 × BitVec 11) :=
  if floatFinite t then (tenths mode t).map fun n => (negFlag t, BitVec.ofNat 11 n) else none

/-! ### The temperature word (spec/30_encoding.md R44) -/

/-- `TEMPW = { S, MAG, 0000 }`. -/
def packTemp (s : BitVec 1) (m : BitVec 11) : TempWord := s ++ m ++ 0#4

/-- `S = TEMPW[15]`. -/
def tempSign (w : TempWord) : BitVec 1 := w.extractLsb' 15 1

/-- `MAG = TEMPW[14:4]`. -/
def tempMag (w : TempWord) : BitVec 11 := w.extractLsb' 4 11

/-- `TEMPW[3:0]`, unused, zero (spec/10_state.md R17). -/
def tempLow (w : TempWord) : BitVec 4 := w.extractLsb' 0 4

/-- "The decoded temperature is `(S = 1 ? -1 : +1) × MAG / 10` °C" (spec/30_encoding.md R44). -/
def decodedTemperature (w : TempWord) : ℚ :=
  (if tempSign w = 1 then -1 else 1) * ((tempMag w).toNat : ℚ) / 10

end Sys2Proof.Machine
end

