-- ==== Sys2Proof/Machine/Serializer.lean ====
section
/-! DEFINITION. The serializer/framer: the 52-bit frame (spec/30_encoding.md R45, R46), the pulse symbols and the
segment list (R47 to R49), the waveform of a SEND and what is observed of it (spec/41_transmitter.md R62, R63, R65,
R66). -/

namespace Sys2Proof.Machine

/-! ### The frame -/

/-- `FRAME = { 0xFF, 0x0, DEVID, TEMPW, HUM, 0xFF }` (spec/30_encoding.md R45). -/
def frame (devid : Byte) (tempw : TempWord) (hum : Byte) : Frame :=
  0xFF#8 ++ 0x0#4 ++ devid ++ tempw ++ hum ++ 0xFF#8

/-- `b_i = FRAME[51 - i]`: bit `i` in the order sent (spec/30_encoding.md R46). -/
def bitSent (f : Frame) (i : Nat) : Bool := f.getLsbD (51 - i)

/-! ### Pulse symbols -/

/-- The first segment of a logical bit: HIGH for 1×PL (a 1) or 3×PL (a 0) (spec/30_encoding.md R47). -/
def highSegment (pl : Nat) (b : Bool) : Segment := { level := .high, dur := if b then 1 * pl else 3 * pl }

/-- The second segment of a logical bit: LOW for 2×PL (spec/30_encoding.md R47). -/
def lowSegment (pl : Nat) : Segment := { level := .low, dur := 2 * pl }

/-- The stop: LOW for 9×PL (spec/30_encoding.md R48). -/
def stopSegment (pl : Nat) : Segment := { level := .low, dur := 9 * pl }

/-- `SEGS(FRAME)[k]`, `k` = 0..104: `SEGS[2i]` and `SEGS[2i + 1]` are the two segments of bit `i`, `SEGS[104]` is the
stop (spec/30_encoding.md R49). -/
def segmentAt (pl : Nat) (f : Frame) (k : Fin 105) : Segment :=
  if k.val = 104 then stopSegment pl
  else if k.val % 2 = 0 then highSegment pl (bitSent f (k.val / 2))
  else lowSegment pl

/-- `SEGS(FRAME)`: the 105 segments of one frame (spec/30_encoding.md R49). -/
def segs (pl : Nat) (f : Frame) : List Segment := List.ofFn (segmentAt pl f)

/-- `WAVE`: `SEGS(FRAME_L)` repeated, back to back (spec/41_transmitter.md R62). -/
def wave (pl : Nat) (f : Frame) (n : Nat) : List Segment := (List.replicate n (segs pl f)).flatten

/-! ### Durations -/

/-- The total duration of a waveform. -/
def duration (w : List Segment) : Nat := (w.map Segment.dur).sum

/-- `Z`: the number of 0 bits in the frame (spec/30_encoding.md R49). -/
def zeroBits (f : Frame) : Nat := (List.range 52).countP fun i => !bitSent f i

/-- `FT(FRAME) = (165 + 2 × Z) × PL` (spec/30_encoding.md R49). -/
def frameTime (pl : Nat) (f : Frame) : Nat := (165 + 2 * zeroBits f) * pl

/-- `TT = REPEAT × FT(FRAME_L)` (spec/41_transmitter.md R63). -/
def sendTime (pl : Nat) (f : Frame) (n : Nat) : Nat := n * frameTime pl f

/-! ### The waveform as a function of time, and what a recorder sees -/

/-- The level `u` microseconds after a waveform starts: segment `j` holds on `[s_j, s_j + d_j)`
(spec/41_transmitter.md R63). None after its end. -/
def levelAt : List Segment → Nat → Option Level
  | [], _ => none
  | s :: w, u => if u < s.dur then some s.level else levelAt w (u - s.dur)

/-- One segment put before a merged waveform: a run of equal levels is one segment whose duration is the sum
(spec/41_transmitter.md R66). -/
def mergeOnto (s : Segment) : List Segment → List Segment
  | [] => [s]
  | r :: w => if s.level = r.level then { level := s.level, dur := s.dur + r.dur } :: w else s :: r :: w

/-- The merged waveform (spec/41_transmitter.md R66). -/
def merged (w : List Segment) : List Segment := w.foldr mergeOnto []

/-- The primitives of DOC's reference design (spec/41_transmitter.md R65). -/
inductive Primitive where
  | configureOutput   (pin : PinId)
  | writeDigital      (pin : PinId) (level : Level)
  | delayMicroseconds (d : Nat)
deriving DecidableEq, Repr

/-- The canonical trace of a reset (spec/41_transmitter.md R65). -/
def resetTrace (pin : PinId) : List Primitive := [.configureOutput pin]

/-- The canonical trace of a waveform: a write and a delay for each segment (spec/41_transmitter.md R65). -/
def primitiveTrace (pin : PinId) (w : List Segment) : List Primitive :=
  w.flatMap fun s => [.writeDigital pin s.level, .delayMicroseconds s.dur]

end Sys2Proof.Machine
end

