-- ==== Sys2Proof/Machine/State.lean ====
section
/-! DEFINITION. The state of the core (spec/10_state.md R14), what the host presents at its ports
(spec/60_exceptions.md R77), the reasons a step can stop, and the state after reset (spec/10_state.md R25). -/

namespace Sys2Proof.Machine

/-- The reasons of the core's own fault state (spec/60_exceptions.md R70). They are values of the `FAULT` register,
not stops of the model (log 14). -/
inductive FaultReason where
  | illegalCommand
  | commandWhileBusy
deriving DecidableEq, Repr

/-- The contents of the `FAULT` register when it is not none: "the reason and the whole 40-bit `CW`"
(spec/60_exceptions.md R70). -/
structure FaultRecord where
  reason : FaultReason
  cw     : CmdWord
deriving DecidableEq, Repr

/-- What the host presents at the input ports at one instant: `RST` with its parameters, or not, and `CMD` under
`CMD_VALID`, or not (spec/60_exceptions.md R77). With neither, one microsecond passes (log 1). -/
structure HostInput where
  rst : Option Construct
  cmd : Option CmdWord
deriving DecidableEq, Repr

/-- The host presents nothing: one microsecond passes (log 1). -/
def HostInput.wait : HostInput := { rst := none, cmd := none }

/-- The host presents a command word (spec/60_exceptions.md R77). -/
def HostInput.present (cw : CmdWord) : HostInput := { rst := none, cmd := some cw }

/-- The host asserts reset, and no command with it (spec/60_exceptions.md R77). -/
def HostInput.reset (c : Construct) : HostInput := { rst := some c, cmd := none }

/-- The whole state of the core, under the spec's names (spec/10_state.md R14), then the parameters of the instance
(spec/00_scope.md R8), then the model's own two fields. -/
structure State where
  -- data fields and configuration
  devid       : Byte               -- `DEVID`, R15
  hum         : Byte               -- `HUM`, R16
  tempw       : TempWord           -- `TEMPW`, R17
  repeatCount : Nat                -- `REPEAT`, R18 (log 20)
  pin         : PinId              -- `PIN`, R19
  -- pin state
  pinDir      : PinDir             -- `PIN_DIR`, R20
  pinLevel    : Level              -- `PIN_LEVEL`, R21
  -- status
  busy        : Bool               -- `BUSY`, R22
  fault       : Option FaultRecord -- `FAULT`, R23
  -- hidden sequencer, R24
  rep         : Nat                -- `REP`: frames completed in this SEND (log 20)
  seg         : Fin 105            -- `SEG`: the segment in progress within the frame
  cnt         : Nat                -- `CNT`: microseconds left in the segment (log 20)
  frameL      : Frame              -- `FRAME_L`: the frame latched at SEND
  -- parameters of the instance: no step writes them (log 3)
  cfg         : Config
  -- the model's own: what the host will present, oldest first (log 1), and how many draws were taken (log 8)
  inputs      : List HostInput
  draws       : Nat
deriving DecidableEq, Repr

/-- The reasons the model stops where the spec gives no next state. -/
inductive Fault where
  /-- Raised by the timing controller alone (`sequencerTick`), on a tick with `BUSY` = 1 and `CNT` = 0, a state that
  spec/10_state.md R24 rules out (`1 ≤ CNT`). Safe: the model stops where the spec says nothing, and no state that
  meets the invariant reaches it (log 12). -/
  | sequencerOutOfRange
deriving DecidableEq, Repr

/-- The reasons the model gives a situation no meaning. -/
inductive Refusal where
  /-- Raised by the reset operation on a count `N` below 1 or above `REPEAT_MAX`: "refused: the model gives that
  instance no meaning and no run" (spec/70_reset_and_hazards.md R83). Safe: nothing can be proved of such a run. -/
  | illegalRepeatCount (n : Int)
  /-- Raised by an arm of `exec` alone, for a command that has no meaning yet. Safe: the model stops. -/
  | notModelled (mnemonic : String)
deriving DecidableEq, Repr

/-- The answer of a meaning and of a step. -/
abbrev Answer := Host.Outcome State Fault Refusal

/-- The state right after reset (spec/10_state.md R25, spec/70_reset_and_hazards.md R82), for the construction
parameters `PIN` = 0, `ID0` = 0x00, `N` = 1 (log 4) and the default parameters of the instance (log 3, log 5).
`PIN_LEVEL` is `INIT_LEVEL`, draw number 0 (log 7, log 8). The sequencer registers, which the spec leaves unspecified,
are 0 (log 6). The host presents nothing (log 2). -/
def State.reset : State :=
  { devid := 0x00#8
    hum := 0
    tempw := 0x0000#16
    repeatCount := 1
    pin := { ident := 0 }
    pinDir := .output
    pinLevel := Config.drawInitLevel 0
    busy := false
    fault := none
    rep := 0
    seg := 0
    cnt := 0
    frameL := 0
    cfg := Config.default
    inputs := []
    draws := 1 }

end Sys2Proof.Machine
end

