-- ==== Sys2Proof/WellFormed.lean ====
section
/-! DEFINITION. The checks on what comes in from outside: a command word against the opcode table, construction
parameters, and the parameters of an instance. An `Instr` itself needs no check: its operand types have exactly the
widths of spec/30_encoding.md R42. -/

namespace Sys2Proof

/-- One row of the opcode table: a word belongs to the row when its bits under `mask` are those of `pattern`. -/
structure OpcodeRow where
  mnemonic : String
  pattern  : CmdWord
  mask     : CmdWord
deriving DecidableEq, Repr

/-- Does the word belong to the row? -/
def OpcodeRow.covers (r : OpcodeRow) (cw : CmdWord) : Bool := cw &&& r.mask == r.pattern

/-- The rows of spec/opcode_table.json, in its order. A bit under the mask is an opcode bit or a reserved operand
bit, which must be 0 (spec/30_encoding.md R41, R42). -/
def opcodeTable : List OpcodeRow :=
  [ { mnemonic := "SETID",   pattern := 0x0100000000#40, mask := 0xFFFFFFFF00#40 },
    { mnemonic := "SETHUM",  pattern := 0x0200000000#40, mask := 0xFFFFFFFF00#40 },
    { mnemonic := "SETTEMP", pattern := 0x0300000000#40, mask := 0xFF00000000#40 },
    { mnemonic := "SEND",    pattern := 0x0400000000#40, mask := 0xFFFFFFFFFF#40 } ]

/-- A command word is legal when some row covers it: "Every 40-bit word is either one of the four commands or
illegal" (spec/30_encoding.md R50). -/
def CmdWord.legal (cw : CmdWord) : Bool := opcodeTable.any (·.covers cw)

/-- The parameters of an instance are legal: `PULSE_LENGTH` and `REPEAT_MAX` are positive integers
(spec/00_scope.md R8). -/
def Config.wf (c : Config) : Bool := decide (0 < c.pulseLength) && decide (1 ≤ c.repeatMax)

/-- The construction parameters are legal: `1 ≤ N ≤ REPEAT_MAX`; every `ID0` and every `PIN` is
(spec/70_reset_and_hazards.md R83). -/
def Construct.wf (c : Construct) (repeatMax : Nat) : Bool := decide (1 ≤ c.n) && decide (c.n ≤ repeatMax)

end Sys2Proof
end

