-- ==== Sys2Proof/Machine/Ops.lean ====
section
/-! DEFINITION. The shared operations over State: fault entry, the acceptance checks, the field writes, the start of a
segment, and reset. -/

namespace Sys2Proof.Machine

/-! ### Fault entry (the one operation that takes an exception) -/

/-- From a fault during a SEND on, the pin level and `BUSY` are draws: fresh ones each time this is applied
(spec/60_exceptions.md R72; log 10). -/
def drawPinAndBusy (s : State) : State :=
  { s with
    pinLevel := Config.drawFaultedLevel s.draws
    busy := Config.drawFaultedBusy s.draws
    draws := s.draws + 1 }

/-- `FAULT <- r` (spec/60_exceptions.md R72). -/
def setFault (r : FaultRecord) (s : State) : State := { s with fault := some r }

/-- `raise Fault(reason, CW)`: sets `FAULT` and writes nothing else, except that the pin and `BUSY` are draws if a SEND
was in flight (spec/60_exceptions.md R72; with none in flight they hold, log 29). There is no vector, no saved program counter and no handler; the way back
is reset alone (R73). -/
def raiseFault (reason : FaultReason) (cw : CmdWord) (s : State) : State :=
  let t := setFault { reason := reason, cw := cw } s
  if s.busy then drawPinAndBusy t else t

/-- The acceptance checks of spec/60_exceptions.md R71 in their order: a faulted core absorbs the command; a busy core
faults; otherwise `effect` decides (the command's own effect, or the fault of an illegal word). -/
def accept (cw : CmdWord) (effect : State → State) (s : State) : State :=
  if s.fault.isSome then s
  else if s.busy then raiseFault .commandWhileBusy cw s
  else effect s

/-! ### Field writes -/

/-- `DEVID <- id` (spec/40_encoder.md R53). -/
def setDevid (id : Byte) (s : State) : State := { s with devid := id }

/-- `HUM <- v` (spec/40_encoder.md R54). -/
def setHum (v : Byte) (s : State) : State := { s with hum := v }

/-- `TEMPW <- w` (spec/40_encoder.md R55). -/
def setTempw (w : TempWord) (s : State) : State := { s with tempw := w }

/-- `S` and `M` are draws; the packing still applies (spec/40_encoder.md R59; log 9). Every execution draws afresh, a
repeated SETTEMP of the same operand too (the model's choice, against spec/20_memory.md R35; log 28). -/
def drawTempw (s : State) : State :=
  { s with tempw := packTemp (Config.drawSign s.draws) (Config.drawMagnitude s.draws), draws := s.draws + 1 }

/-! ### The sequencer and the pin -/

/-- `CNT <- n` (spec/41_transmitter.md R64). -/
def setCnt (n : Nat) (s : State) : State := { s with cnt := n }

/-- `SEG <- k; REP <- r` (spec/41_transmitter.md R64). -/
def setPosition (k : Fin 105) (r : Nat) (s : State) : State := { s with seg := k, rep := r }

/-- `BUSY <- 0`: the end of a SEND. The pin keeps its level (spec/41_transmitter.md R64). -/
def endSend (s : State) : State := { s with busy := false }

/-- `FRAME_L <- FRAME(DEVID, TEMPW, HUM); REP <- 0; SEG <- 0; BUSY <- 1` (spec/41_transmitter.md R61, R64). -/
def latchFrame (s : State) : State :=
  { s with frameL := frame s.devid s.tempw s.hum, rep := 0, seg := 0, busy := true }

/-- Start segment `SEG` of the latched frame: `PIN_LEVEL <- lvl; CNT <- d` (spec/41_transmitter.md R64). With
`startSend` this is the `emit` of spec/00_scope.md R11. -/
def startSegment (s : State) : State :=
  let g := segmentAt s.cfg.pulseLength s.frameL s.seg
  { s with pinLevel := g.level, cnt := g.dur }

/-- SEND accepted: latch the frame, start at segment 0 of frame 0, raise `BUSY` (spec/41_transmitter.md R61, R64). -/
def startSend (s : State) : State := startSegment (latchFrame s)

/-! ### The host's inputs -/

/-- What the host will still present, after the input that is being taken (log 1). -/
def setInputs (rest : List HostInput) (s : State) : State := { s with inputs := rest }

/-! ### Reset -/

/-- The state after a reset with the construction parameters `c` (spec/70_reset_and_hazards.md R82). `PIN_LEVEL` is
`INIT_LEVEL`, a fresh draw (log 7). The sequencer registers, which the spec leaves unspecified, are 0 (log 6). -/
def constructed (c : Construct) (s : State) : State :=
  { devid := c.id0
    hum := 0
    tempw := 0x0000#16
    repeatCount := c.n.toNat
    pin := c.pin
    pinDir := .output
    pinLevel := Config.drawInitLevel s.draws
    busy := false
    fault := none
    rep := 0
    seg := 0
    cnt := 0
    frameL := 0
    cfg := s.cfg
    inputs := s.inputs
    draws := s.draws + 1 }

/-- Reset: refused when `N` is not in `1..REPEAT_MAX` (spec/70_reset_and_hazards.md R82, R83). -/
def resetWith (c : Construct) (s : State) : Answer :=
  if c.wf s.cfg.repeatMax then .next (constructed c s) else .refused (.illegalRepeatCount c.n)

end Sys2Proof.Machine
end

