-- ==== Sys2Proof/Machine/Encoder.lean ====
section
/-! DEFINITION. The meanings of the encoder's commands SETID, SETHUM and SETTEMP (spec/40_encoder.md). Each runs only
if the acceptance checks pass, takes no time and does not touch the pin (R52). -/

namespace Sys2Proof.Machine

/-- SETID (spec/40_encoder.md R53). -/
def execSetid (id : Byte) (s : State) : Answer := .next (accept (encode (.setid id)) (setDevid id) s)

/-- SETHUM (spec/40_encoder.md R54). -/
def execSethum (h : Byte) (s : State) : Answer :=
  .next (accept (encode (.sethum h)) (setHum (clampHumidity h)) s)

/-- `TEMPW` from the operand: packed from `S` and `M` where a rule gives them, from draws where none does
(spec/40_encoder.md R55, R59). -/
def writeTemperature (t : Operand) (s : State) : State :=
  match encodeTemperature s.cfg.tempProduct t with
  | some (sign, mag) => setTempw (packTemp sign mag) s
  | none             => drawTempw s

/-- SETTEMP (spec/40_encoder.md R55). -/
def execSettemp (t : Operand) (s : State) : Answer :=
  .next (accept (encode (.settemp t)) (writeTemperature t) s)

end Sys2Proof.Machine
end

