-- ==== Sys2Proof/Machine/Transmitter.lean ====
section
/-! DEFINITION. The meaning of SEND and the timing controller that emits its waveform (spec/41_transmitter.md). -/

namespace Sys2Proof.Machine

/-- SEND: the acceptance of the command; the waveform is emitted by the ticks that follow (spec/41_transmitter.md R61,
R64; log 13). -/
def execSend (s : State) : Answer := .next (accept (encode .send) startSend s)

/-- The end of a segment: the next segment of the frame, or the first of the next frame, or the end of the SEND
(spec/41_transmitter.md R64, from `if SEG < 104`). The pin keeps its level at the end. -/
def endSegment (s : State) : State :=
  let t := if h : s.seg.val < 104 then setPosition ⟨s.seg.val + 1, by omega⟩ s.rep s
           else setPosition 0 (s.rep + 1) s
  if t.rep = t.repeatCount then endSend t else startSegment t

/-- One tick of the timing controller while `BUSY` = 1 (spec/41_transmitter.md R64). `CNT` = 0 is outside the range of
spec/10_state.md R24 (log 12). -/
def sequencerTick (s : State) : Answer :=
  if s.cnt = 0 then .fault .sequencerOutOfRange
  else
    let t := setCnt (s.cnt - 1) s
    .next (if t.cnt = 0 then endSegment t else t)

/-- One microsecond passes. Faulted during a SEND: the pin and `BUSY` are drawn anew (spec/60_exceptions.md R72; log 10,
log 11). Faulted on an idle core: the pin and `BUSY` hold, which is the model's choice between R72's condition and the
unconditional words of R72 and D19 (log 29). Idle: the core holds every register (spec/60_exceptions.md R81). Busy: the
timing controller ticks (spec/41_transmitter.md R64). -/
def tick (s : State) : Answer :=
  match s.fault with
  | some r =>
    match r.reason with
    | .commandWhileBusy => .next (drawPinAndBusy s)
    | .illegalCommand   => .next s
  | none => if s.busy then sequencerTick s else .next s

end Sys2Proof.Machine
end

