-- ==== Sys2Proof/Machine/Dispatch.lean ====
section
/-! DEFINITION. One arm per command: the direct call of its meaning. -/

namespace Sys2Proof.Machine

def exec (i : Instr) (s : State) : Host.Outcome State Fault Refusal :=
  match i with
  | .setid id => Sys2Proof.Machine.execSetid id s
  | .sethum h => Sys2Proof.Machine.execSethum h s
  | .settemp t => Sys2Proof.Machine.execSettemp t s
  | .send => Sys2Proof.Machine.execSend s

end Sys2Proof.Machine
end

