-- ==== Sys2Proof/Machine/Command.lean ====
section
/-! DEFINITION. What the core does with the ports at one instant: reset, a command word, or one microsecond
(spec/60_exceptions.md R71, R77; spec/70_reset_and_hazards.md R84). -/

namespace Sys2Proof.Machine

/-- An illegal word: absorbed by a faulted core, `CommandWhileBusy` on a busy core, else `IllegalCommand`
(spec/60_exceptions.md R71). -/
def execIllegal (cw : CmdWord) (s : State) : Answer :=
  .next (accept cw (raiseFault .illegalCommand cw) s)

/-- A command word is presented (spec/60_exceptions.md R71). -/
def present (cw : CmdWord) (s : State) : Answer :=
  match decode cw with
  | .ok i    => exec i s
  | .error _ => execIllegal cw s

/-- The ports at one instant. "Reset overrides any command presented at the same instant"
(spec/70_reset_and_hazards.md R84; log 22); with neither, one microsecond passes (log 1). -/
def deliver (x : HostInput) (s : State) : Answer :=
  match x.rst with
  | some c => resetWith c s
  | none =>
    match x.cmd with
    | some cw => present cw s
    | none    => tick s

/-- The core takes the next input of the host, or, when the host presents nothing more, lets one microsecond pass
(log 1). -/
def takeInput (s : State) : Answer :=
  match s.inputs with
  | []        => tick s
  | x :: rest => deliver x (setInputs rest s)

/-- The command word that the table numbers as `w`, put where the next step takes its input. -/
def pushWord (w : Nat) (s : State) : State :=
  setInputs (HostInput.present (BitVec.ofNat 40 w) :: s.inputs) s

end Sys2Proof.Machine
end

