-- ==== Sys2Proof/Machine/Step.lean ====
section
/-! DEFINITION. One step of the core, and the place of the next command. -/

namespace Sys2Proof.Machine

/-- One step: what the host presents at one instant, or one microsecond (log 1). -/
def step (s : State) : Host.Outcome State Fault Refusal := takeInput s

/-- The state in which the next step runs the command whose word is `w`: the host presents that word next. A program
is presented by the host from outside, so this stands for the host's presenting it (log 2). -/
def State.withFetchWord (s : State) (_nbits w : Nat) : State := pushWord w s

end Sys2Proof.Machine
end

