-- ==== Sys2Proof/Machine/Assembler.lean ====
section
/-! DEFINITION. The assembler syntax of spec/30_encoding.md R51: "one command per line, the mnemonic then at most one
operand". The lexical details that the rule leaves open are log 18. -/

namespace Sys2Proof.Machine

/-- A decimal literal: `(-1)^neg × digits × 10^exp10`. -/
structure Decimal where
  neg    : Bool
  digits : Nat
  exp10  : Int
deriving DecidableEq, Repr

/-- One line of assembler, the five forms of the table of spec/30_encoding.md R51. -/
inductive AsmLine where
  | setid       (imm : Int)
  | sethum      (imm : Int)
  | settempReal (d : Decimal)
  | settempRaw  (t : Operand)
  | send
deriving DecidableEq, Repr

/-- `<imm8>`: "a value outside that range is an assembly error, not a clamp" (spec/30_encoding.md R51). -/
def imm8 (n : Int) : Option Byte := if 0 ≤ n ∧ n ≤ 255 then some (BitVec.ofNat 8 n.toNat) else none

/-- The binary32 bits 30:0 of the magnitude `n × 2^e` that `roundBinary32` gives: with `n ≥ 2^23` the exponent field is
`e + 150`, below it the pattern is subnormal and `e` is `-149`; one sum covers both (spec/30_encoding.md R43). -/
def magnitudeBits (n : Nat) (e : Int) : BitVec 31 := BitVec.ofNat 31 ((e + 149).toNat * 2 ^ 23 + n)

/-- `bits32(real)`: "the binary32 nearest to the decimal literal, ties to even" (spec/30_encoding.md R51). A literal
whose nearest binary32 is not finite is an assembly error (log 18). -/
def bits32 (d : Decimal) : Option Operand :=
  match roundBinary32 (d.digits * 10 ^ d.exp10.toNat) (10 ^ (-d.exp10).toNat) with
  | .finite n e => some ((if d.neg then 1#1 else 0#1) ++ magnitudeBits n e)
  | .overflow   => none

/-- The command of a line, or an assembly error (spec/30_encoding.md R51). -/
def assemble : AsmLine → Option Instr
  | .setid n       => (imm8 n).map .setid
  | .sethum n      => (imm8 n).map .sethum
  | .settempReal d => (bits32 d).map .settemp
  | .settempRaw t  => some (.settemp t)
  | .send          => some .send

/-! ### Reading a line of text (log 18) -/

/-- The value of a digit in base ten or sixteen. -/
def digitValue (base : Nat) (c : Char) : Option Nat :=
  let v :=
    if '0' ≤ c ∧ c ≤ '9' then some (c.toNat - 48)
    else if 'a' ≤ c ∧ c ≤ 'f' then some (c.toNat - 87)
    else if 'A' ≤ c ∧ c ≤ 'F' then some (c.toNat - 55)
    else none
  v.filter (· < base)

/-- The number that digits write after those that wrote `acc`. -/
def readDigits (base : Nat) : Nat → List Char → Option Nat
  | acc, []      => some acc
  | acc, c :: cs => (digitValue base c).bind fun v => readDigits base (acc * base + v) cs

/-- A number of at least one digit. -/
def readNat (base : Nat) (cs : List Char) : Option Nat := if cs.isEmpty then none else readDigits base 0 cs

/-- A decimal integer, perhaps with a minus sign. -/
def readInt : List Char → Option Int
  | '-' :: cs => (readNat 10 cs).map fun n => -(n : Int)
  | cs        => (readNat 10 cs).map fun n => (n : Int)

/-- `<imm8>` as text: "a decimal or `0x` hex integer" (spec/30_encoding.md R51). -/
def readImm : List Char → Option Int
  | '0' :: 'x' :: cs => (readNat 16 cs).map fun n => (n : Int)
  | cs               => readInt cs

/-- The text before the first `c`, and the text after it if there is one. -/
def cutAt (c : Char) : List Char → List Char × Option (List Char)
  | []      => ([], none)
  | d :: ds => if d = c then ([], some ds) else (d :: (cutAt c ds).1, (cutAt c ds).2)

/-- An unsigned decimal literal: digits, perhaps a point and digits, perhaps `e` and an exponent. -/
def readUnsigned (neg : Bool) (cs : List Char) : Option Decimal :=
  let mantissa := cutAt '.' (cutAt 'e' cs).1
  let fraction := mantissa.2.getD []
  let exponent := match (cutAt 'e' cs).2 with
    | none    => some 0
    | some es => readInt es
  if mantissa.1.isEmpty ∨ mantissa.2 = some [] then none
  else
    (readNat 10 (mantissa.1 ++ fraction)).bind fun n =>
      exponent.map fun e => { neg := neg, digits := n, exp10 := e - fraction.length }

/-- The operand of SETTEMP: `0x` and eight hex digits, or a decimal literal with perhaps a minus sign. -/
def readTemperature : List Char → Option AsmLine
  | '0' :: 'x' :: cs =>
    if cs.length = 8 then (readNat 16 cs).map fun n => .settempRaw (BitVec.ofNat 32 n) else none
  | '-' :: cs => (readUnsigned true cs).map .settempReal
  | cs        => (readUnsigned false cs).map .settempReal

/-- The words of a line, cut at spaces. -/
def wordsOf (cs : List Char) : List (List Char) :=
  (cs.foldr (fun c ws => if c = ' ' then [] :: ws else (c :: ws.headD []) :: ws.tail) [[]]).filter (· ≠ [])

/-- A line of text (spec/30_encoding.md R51). -/
def readLine (cs : List Char) : Option AsmLine :=
  match wordsOf cs with
  | [['S', 'E', 'N', 'D']]                          => some .send
  | [['S', 'E', 'T', 'I', 'D'], w]                  => (readImm w).map .setid
  | [['S', 'E', 'T', 'H', 'U', 'M'], w]             => (readImm w).map .sethum
  | [['S', 'E', 'T', 'T', 'E', 'M', 'P'], w]        => readTemperature w
  | _                                               => none

/-- The command word of a line of text, or an assembly error. -/
def assembleText (cs : List Char) : Option CmdWord := ((readLine cs).bind assemble).map encode

end Sys2Proof.Machine
end

