-- ==== Sys2Proof/Machine/Flags.lean ====
section
/-! DEFINITION. The core has no condition flags (spec/10_state.md R26). Its status is `BUSY` and `FAULT`: this file
holds the fault codes and the output ports that show the status and the pin (spec/60_exceptions.md R70, R77). -/

namespace Sys2Proof.Machine

/-- The code of a fault reason (spec/60_exceptions.md R70). -/
def FaultReason.code : FaultReason → Nat
  | .illegalCommand   => 1
  | .commandWhileBusy => 2

/-- The output ports (spec/60_exceptions.md R77) and the line they are routed to (spec/10_state.md R19). -/
structure OutPorts where
  busy   : Bool
  fault  : Option FaultRecord
  pinOe  : Bool
  pinOut : Level
  line   : PinId
deriving DecidableEq, Repr

/-- What the core drives on its output ports: `PIN_OE` says `PIN_DIR` = OUTPUT, `PIN_OUT` is `PIN_LEVEL`
(spec/60_exceptions.md R77). -/
def outPorts (s : State) : OutPorts :=
  { busy := s.busy, fault := s.fault, pinOe := decide (s.pinDir = .output), pinOut := s.pinLevel, line := s.pin }

/-- The core takes a command: no fault and not busy (spec/60_exceptions.md R71). -/
def ready (s : State) : Bool := s.fault.isNone && !s.busy

end Sys2Proof.Machine
end

