-- ==== Sys2Proof/Machine/Observe.lean ====
section
/-! DEFINITION. Runs of the core and what a recorder on the pin sees of them (spec/41_transmitter.md R66,
spec/60_exceptions.md R80, spec/70_reset_and_hazards.md R88). Nothing here changes the state. -/

namespace Sys2Proof.Machine

/-- `k` steps, up to the first stop. -/
def runSteps : Nat → State → Answer
  | 0, s => .next s
  | k + 1, s =>
    match step s with
    | .next t    => runSteps k t
    | .fault f   => .fault f
    | .refused r => .refused r

/-- Does the next step let a microsecond pass? A command and a reset take no time (spec/40_encoder.md R52; log 15). -/
def passesMicrosecond (s : State) : Bool :=
  match s.inputs with
  | []     => true
  | x :: _ => x.rst.isNone && x.cmd.isNone

/-- Is a reset asserted at the next step? -/
def takesReset (s : State) : Bool :=
  match s.inputs with
  | []     => false
  | x :: _ => x.rst.isSome

/-- What a recorder on the pin has after the next step, if it had `w` before: a reset starts the record anew, because
the run that it cuts off is over (log 27); a microsecond that passes adds the level that the state holds before the tick
that ends it (spec/41_transmitter.md R63, R64; log 24); a command adds nothing. -/
def record (s : State) (w : List Segment) : List Segment :=
  if takesReset s then []
  else if passesMicrosecond s then w ++ [{ level := s.pinLevel, dur := 1 }]
  else w

/-- The record after `k` steps, if it was `w` before, one entry for each microsecond since the latest reset
(log 24, log 27). -/
def pinSamples : Nat → State → List Segment → List Segment
  | 0, _, w => w
  | k + 1, s, w =>
    match step s with
    | .next t => pinSamples k t (record s w)
    | _       => w

/-- The observable waveform of `k` steps, since their latest reset if there is one among them: the pin level over time,
merged (spec/41_transmitter.md R66; log 24, log 27). -/
def observed (k : Nat) (s : State) : List Segment := merged (pinSamples k s [])

/-- What a run gives at its end: the line that the waveform is on, the observable waveform, and the final fields
(spec/70_reset_and_hazards.md R88). -/
structure RunResult where
  line     : PinId
  waveform : List Segment
  devid    : Byte
  hum      : Byte
  tempw    : TempWord
deriving DecidableEq, Repr

/-- A run has ended successfully: "the host has presented its last command, `BUSY` = 0 and `FAULT` = none"
(spec/70_reset_and_hazards.md R88). No command is among the inputs to come; microseconds may be. -/
def ended (s : State) : Bool := s.inputs.all (fun x => x.cmd.isNone) && !s.busy && s.fault.isNone

/-- The result of the run of `k` steps that starts with the reset the host asserts at `s`, if the run ends successfully
(spec/70_reset_and_hazards.md R88). No reset at `s`, no run; and none before the first step, which takes that reset, or
refuses it (R83). Of several resets among the `k` steps the latest is where the run starts (log 27). -/
def runResult (k : Nat) (s : State) : Option RunResult :=
  if 0 < k ∧ takesReset s then
    match runSteps k s with
    | .next t =>
      if ended t then
        some { line := t.pin, waveform := observed k s, devid := t.devid, hum := t.hum, tempw := t.tempw }
      else none
    | _ => none
  else none

end Sys2Proof.Machine
end

