-- ==== Sys2Proof/Safety.lean ====
section
/-! DEFINITION. What the claims are stated in terms of: the invariant of the core, and the host's duty
(spec/70_reset_and_hazards.md R86). The end of a run (R88) is `Machine.ended`. -/

namespace Sys2Proof

open Machine

/-- A SEND is in flight: the sequencer is within the ranges of spec/10_state.md R24, the pin has the level of the
segment in progress (spec/41_transmitter.md R63), and the latched frame is the frame of the present fields, because no
command can change a field while `BUSY` = 1 (spec/41_transmitter.md R61). -/
structure InFlight (s : State) : Prop where
  repRange  : s.rep < s.repeatCount
  cntPos    : 1 ≤ s.cnt
  cntMax    : s.cnt ≤ (segmentAt s.cfg.pulseLength s.frameL s.seg).dur
  pinFollows : s.pinLevel = (segmentAt s.cfg.pulseLength s.frameL s.seg).level
  frameHeld : s.frameL = frame s.devid s.tempw s.hum

/-- The invariant of the core. -/
structure CoreInv (s : State) : Prop where
  /-- The parameters of the instance are legal (spec/00_scope.md R8). -/
  cfgLegal : s.cfg.wf = true
  /-- `HUM ≤ 100` (spec/10_state.md R16). -/
  humMax : s.hum.toNat ≤ 100
  /-- `TEMPW[3:0] = 0` (spec/10_state.md R17). -/
  tempwLow : tempLow s.tempw = 0
  /-- `1 ≤ REPEAT ≤ REPEAT_MAX` (spec/10_state.md R18). -/
  repeatRange : 1 ≤ s.repeatCount ∧ s.repeatCount ≤ s.cfg.repeatMax
  /-- `PIN_DIR` is OUTPUT from reset on (spec/10_state.md R20). -/
  pinOutput : s.pinDir = .output
  /-- `IllegalCommand` is raised only on an idle core, by an illegal word (spec/60_exceptions.md R70, R71). -/
  illegalFault : ∀ r, s.fault = some r → r.reason = .illegalCommand → s.busy = false ∧ r.cw.legal = false
  /-- A busy core that is not faulted is in the middle of a SEND (spec/10_state.md R22, R24). -/
  sending : s.fault = none → s.busy = true → InFlight s

/-- The host keeps its duty at the next step: a legal count at a reset, and a command only if it is legal, `BUSY` = 0
and `FAULT` = none (spec/70_reset_and_hazards.md R86). -/
def KeepsDuty (s : State) : Prop :=
  ∀ x rest, s.inputs = x :: rest →
    (∀ c, x.rst = some c → c.wf s.cfg.repeatMax = true) ∧
    (x.rst = none → ∀ cw, x.cmd = some cw → cw.legal = true ∧ s.busy = false ∧ s.fault = none)

/-- The host keeps its duty for `k` steps (spec/70_reset_and_hazards.md R86). -/
def KeepsDutyFor : Nat → State → Prop
  | 0, _     => True
  | k + 1, s => KeepsDuty s ∧ ∀ t, step s = .next t → KeepsDutyFor k t

/-- The command word with opcode number `op` and operand number `opd` (spec/30_encoding.md R40). -/
def wordOf (op opd : Nat) : CmdWord := BitVec.ofNat 40 (op * 2 ^ 32 + opd)

/-- What the acceptance checks of spec/60_exceptions.md R71 make of a command `i` whose own effect is `effect`: a ready
core runs the effect; a busy core records `CommandWhileBusy` with the whole word, and its pin and `BUSY` are draws
(R72); a faulted core is left as it is (R73). -/
def RunsAs (i : Instr) (effect : State → State) : Prop :=
  ∀ s : State,
    (s.fault = none → s.busy = false → exec i s = .next (effect s)) ∧
    (s.fault = none → s.busy = true →
      exec i s = .next { s with
        fault := some { reason := .commandWhileBusy, cw := encode i }
        pinLevel := Config.drawFaultedLevel s.draws
        busy := Config.drawFaultedBusy s.draws
        draws := s.draws + 1 }) ∧
    (∀ r, s.fault = some r → exec i s = .next s)

/-- A word is illegal to a ready core: it raises `Fault(IllegalCommand)` and changes nothing else
(spec/30_encoding.md R42, spec/60_exceptions.md R72). -/
def FaultsAsIllegal (cw : CmdWord) : Prop :=
  ∀ s : State, s.fault = none → s.busy = false →
    present cw s = .next { s with fault := some { reason := .illegalCommand, cw := cw } }

/-- `n` is the integer nearest `x`, and the even one of two at a tie (`roundTiesToEven`, spec/40_encoder.md R58). -/
def RoundsTo (n : Nat) (x : ℚ) : Prop :=
  (n : ℚ) - 1 / 2 ≤ x ∧ x ≤ n + 1 / 2 ∧ (x = n - 1 / 2 ∨ x = n + 1 / 2 → n % 2 = 0)

end Sys2Proof
end

