-- ==== Sys2Proof/Certificates/Slice0/Obligations.lean ====
section
/-! DEFINITION. The statements for the provers. Each is listed in OBLIGATIONS.json. -/

open Sys2Proof Sys2Proof.Machine

/-! ### Encoding -/

/-- Decoding and encoding agree on every word and every command, with every operand at every value
(spec/30_encoding.md sections 1 and 5). -/
def Obligations.DecodeEncodeAgree : Prop :=
  ∀ (cw : CmdWord) (i : Instr), decode cw = .ok i ↔ encode i = cw

/-- The illegal words are exactly those of R50, in numbers; each raises `IllegalCommand` on a ready core; every other
word is one of the four commands, as the opcode table's rows have it. -/
def Obligations.IllegalWordsExactly : Prop :=
  ∀ cw : CmdWord,
    let op := cw.toNat / 2 ^ 32
    let opd := cw.toNat % 2 ^ 32
    let illegal := op = 0 ∨ 5 ≤ op ∨ ((op = 1 ∨ op = 2) ∧ 2 ^ 8 ≤ opd) ∨ (op = 4 ∧ 1 ≤ opd)
    (illegal → (∃ e, decode cw = .error e) ∧ cw.legal = false ∧ FaultsAsIllegal cw) ∧
    (¬ illegal → (∃ i, decode cw = .ok i) ∧ cw.legal = true)

/-- The words written out in spec/95_test_vectors.md section 2 decode to the commands they stand for. -/
def Obligations.WrittenWordsDecode : Prop :=
  decode 0x010000003C#40 = .ok (.setid 0x3C#8) ∧
  decode 0x02000000C8#40 = .ok (.sethum 200#8) ∧
  decode 0x0341AC0000#40 = .ok (.settemp 0x41AC0000#32) ∧
  decode 0x03FFFFFFFF#40 = .ok (.settemp 0xFFFFFFFF#32) ∧
  decode 0x0400000000#40 = .ok .send

/-! ### The step -/

/-- A step runs the decoded command: when the host presents a word that decodes to `i`, and no reset with it, the step
is `exec i` on the state from which that input is taken away; nothing else is done around `exec`. -/
def Obligations.StepRunsDecodedCommand : Prop :=
  ∀ (s : State) (x : HostInput) (rest : List HostInput) (cw : CmdWord) (i : Instr),
    s.inputs = x :: rest → x.rst = none → x.cmd = some cw → decode cw = .ok i →
    step s = exec i { s with inputs := rest }

/-- The command whose word `withFetchWord` stores is the one the very next step runs. -/
def Obligations.FetchWordRunsCommand : Prop :=
  ∀ (s : State) (i : Instr), step (s.withFetchWord 40 (encode i).toNat) = exec i s

/-- The acceptance checks, in their order: a faulted core absorbs every word; a busy core records
`CommandWhileBusy` for every word, legal or not, and writes no field and no register of the sequencer, its pin and
`BUSY` being draws (the draw counter is the model's own, log 8); an illegal word records `IllegalCommand`; otherwise the
command is executed, to a next state. -/
def Obligations.AcceptanceChecksInOrder : Prop :=
  ∀ (s : State) (cw : CmdWord),
    (∀ r, s.fault = some r → present cw s = .next s) ∧
    (s.fault = none → s.busy = true → present cw s = .next { s with
      fault := some { reason := .commandWhileBusy, cw := cw }
      pinLevel := Config.drawFaultedLevel s.draws
      busy := Config.drawFaultedBusy s.draws
      draws := s.draws + 1 }) ∧
    (s.fault = none → s.busy = false → (∀ i, encode i ≠ cw) →
      present cw s = .next { s with fault := some { reason := .illegalCommand, cw := cw } }) ∧
    (s.fault = none → s.busy = false → ∀ i, encode i = cw →
      present cw s = exec i s ∧ ∃ t, exec i s = .next t ∧ t.fault = none)

/-! ### The encoder's commands -/

/-- SETID: its encoding, its effect on a ready core, and the only other outcomes, those of the acceptance checks. -/
def Obligations.SetidStoresId : Prop :=
  (∀ id : Byte, decode (wordOf 0x01 id.toNat) = .ok (.setid id)) ∧
  (∀ opd, 2 ^ 8 ≤ opd → opd < 2 ^ 32 → FaultsAsIllegal (wordOf 0x01 opd)) ∧
  (∀ id : Byte, RunsAs (.setid id) fun s => { s with devid := id })

/-- SETHUM: its encoding, its effect on a ready core (`HUM <- min(h, 100)`), and the only other outcomes. -/
def Obligations.SethumClampsTo100 : Prop :=
  (∀ h : Byte, decode (wordOf 0x02 h.toNat) = .ok (.sethum h)) ∧
  (∀ opd, 2 ^ 8 ≤ opd → opd < 2 ^ 32 → FaultsAsIllegal (wordOf 0x02 opd)) ∧
  (∀ h : Byte, RunsAs (.sethum h) fun s => { s with hum := BitVec.ofNat 8 (min h.toNat 100) })

/-- SETTEMP: every word with its opcode is legal; a ready core goes on to a next state in which `TEMPW` alone is
written (beside the model's own draw counter), packed from the sign flag and the tenths modulo 2048 where the operand is
finite and its tenths do not overflow, and from some `S` and `M` where not; the only other outcomes are those of the
acceptance checks. -/
def Obligations.SettempEncodesTemperature : Prop :=
  (∀ t : Operand, decode (wordOf 0x03 t.toNat) = .ok (.settemp t)) ∧
  ∀ t : Operand, ∃ effect : State → State,
    RunsAs (.settemp t) effect ∧
    ∀ s : State,
      (t.toNat / 2 ^ 23 % 2 ^ 8 = 255 ∨ tenths s.cfg.tempProduct t = none →
        ∃ sign mag, sign < 2 ∧ mag < 2048 ∧
          effect s = { s with tempw := BitVec.ofNat 16 (sign * 2 ^ 15 + mag * 2 ^ 4), draws := s.draws + 1 }) ∧
      (t.toNat / 2 ^ 23 % 2 ^ 8 ≠ 255 → ∀ n, tenths s.cfg.tempProduct t = some n →
        effect s = { s with tempw := BitVec.ofNat 16 ((negFlag t).toNat * 2 ^ 15 + n % 2048 * 2 ^ 4) })

/-- A value whose tenths are below 2048 is stored without truncation, and `EXACT` never overflows; 2048 and above
alias: the magnitude is the tenths modulo 2048, never a saturated one. Stated of the `EXACT` mode on every finite
operand. -/
def Obligations.ExactModeTruncatesMagnitude : Prop :=
  ∀ (t : Operand) (q : ℚ) (s : State), floatValue t = .finite q → s.cfg.tempProduct = .exact →
    s.fault = none → s.busy = false →
    ∃ u, exec (.settemp t) s = .next u ∧
      ((tempMag u.tempw).toNat : ℤ) = ⌊|q| * 10⌋ % 2048 ∧ (tempSign u.tempw = 1 ↔ q < 0) ∧ tempLow u.tempw = 0

/-- The value of a binary32 pattern, by its sign, exponent and fraction fields. -/
def Obligations.FloatValueOfPattern : Prop :=
  ∀ t : Operand,
    let ts : Nat := t.toNat / 2 ^ 31
    let te : Nat := t.toNat / 2 ^ 23 % 2 ^ 8
    let tf : Nat := t.toNat % 2 ^ 23
    (te = 255 → tf = 0 → floatValue t = .infinity (BitVec.ofNat 1 ts)) ∧
    (te = 255 → tf ≠ 0 → floatValue t = .nan) ∧
    (te = 0 → floatValue t = .finite ((-1) ^ ts * tf * (2 : ℚ) ^ (-149 : ℤ))) ∧
    (te ≠ 0 → te ≠ 255 → floatValue t = .finite ((-1) ^ ts * (2 ^ 23 + tf) * (2 : ℚ) ^ ((te : ℤ) - 150)))

/-- The sign flag is 1 exactly when the sign bit is set and the rest is not zero, and, of a finite pattern, exactly
when the value is below zero; so −0.0 has the flag 0. -/
def Obligations.NegFlagMeansBelowZero : Prop :=
  ∀ t : Operand,
    (negFlag t = 1 ↔ 2 ^ 31 < t.toNat) ∧ (negFlag t = 0 ↔ t.toNat ≤ 2 ^ 31) ∧
    ∀ q, floatValue t = .finite q → (negFlag t = 1 ↔ q < 0)

/-- `TENTHS` under `EXACT` is the floor of `|value| × 10` in exact arithmetic. -/
def Obligations.ExactTenthsAreFloor : Prop :=
  ∀ (t : Operand) (q : ℚ), floatValue t = .finite q → (tenthsExact t : ℤ) = ⌊|q| * 10⌋

/-- The rounding of a quotient is to the nearest integer, ties to even. -/
def Obligations.RoundTiesToEvenIsNearest : Prop :=
  ∀ num den : Nat, 0 < den → RoundsTo (roundTiesToEven num den) ((num : ℚ) / den)

/-- `TENTHS` under `BINARY32_RNE`: the product is rounded to a multiple of `quantum`, ties to even, overflows from
`2^128` on, and is then truncated. `Int.log 2 p` is `floor(log2(p))`. -/
def Obligations.RneTenthsRoundTheProduct : Prop :=
  ∀ (t : Operand) (q : ℚ), floatValue t = .finite q →
    let p := |q| * 10
    let quantum := (2 : ℚ) ^ (max (Int.log 2 p) (-126) - 23)
    (p = 0 → tenthsRne t = some 0) ∧
    (p ≠ 0 → ∃ n : Nat, RoundsTo n (p / quantum) ∧
      (2 ^ 128 ≤ n * quantum → tenthsRne t = none) ∧
      (n * quantum < 2 ^ 128 → tenthsRne t = some ⌊n * quantum⌋₊))

/-- Under `BINARY32_RNE` the product overflows exactly from `(2 - 2^-24) × 2^127` on. -/
def Obligations.RneOverflowThreshold : Prop :=
  ∀ (t : Operand) (q : ℚ), floatValue t = .finite q →
    (tenthsRne t = none ↔ (2 - 1 / 2 ^ 24) * 2 ^ 127 ≤ |q| * 10)

/-- A corner case as spec/40_encoder.md R55 words it: from `2^11` on the `EXACT` magnitude is 0. It contradicts the
pseudocode of R57 (2049.0 has 20490 tenths, and 20490 mod 2048 is 10), which the model follows (log 26), so it is
expected to fail. -/
def Obligations.ExactMagnitudeZeroFromTwoPow11 : Prop :=
  ∀ (t : Operand) (q : ℚ), floatValue t = .finite q → 2 ^ 11 ≤ |q| →
    encodeTemperature .exact t = some (negFlag t, 0)

/-- What does hold of that corner case (log 26): from `2^33` on the tenths are a multiple of 2048, so the `EXACT`
magnitude is 0. -/
def Obligations.ExactMagnitudeZeroFromTwoPow33 : Prop :=
  ∀ (t : Operand) (q : ℚ), floatValue t = .finite q → 2 ^ 33 ≤ |q| →
    encodeTemperature .exact t = some (negFlag t, 0)

/-- Decoding the word that SETTEMP stores gives the value back within a tenth of a degree, in the nominal range, in
both product modes. -/
def Obligations.DecodedTemperatureWithinTenth : Prop :=
  ∀ (mode : TempProduct) (t : Operand) (q : ℚ), floatValue t = .finite q → |q| ≤ 2047 / 10 →
    ∃ sign mag, encodeTemperature mode t = some (sign, mag) ∧
      |decodedTemperature (packTemp sign mag) - q| < 1 / 10

/-- The temperature word: its number, its fields, and the temperature it stands for. -/
def Obligations.TemperatureWordFields : Prop :=
  ∀ (sign : BitVec 1) (mag : BitVec 11),
    let w := packTemp sign mag
    w.toNat = sign.toNat * 2 ^ 15 + mag.toNat * 2 ^ 4 ∧
    tempSign w = sign ∧ tempMag w = mag ∧ tempLow w = 0 ∧
    decodedTemperature w = (if sign = 1 then -1 else 1) * mag.toNat / 10

/-- The frame of the setters, whatever the state they run in: beside its own field a setter changes nothing on a core
that is not busy; on a busy core it writes no field. (`draws` is the model's own counter.) -/
def Obligations.SettersFrame : Prop :=
  ∀ (i : Instr) (s t : State), i ≠ .send → exec i s = .next t →
    ((∀ id, i ≠ .setid id) → t.devid = s.devid) ∧
    ((∀ h, i ≠ .sethum h) → t.hum = s.hum) ∧
    ((∀ p, i ≠ .settemp p) → t.tempw = s.tempw) ∧
    t.repeatCount = s.repeatCount ∧ t.pin = s.pin ∧ t.pinDir = s.pinDir ∧
    t.rep = s.rep ∧ t.seg = s.seg ∧ t.cnt = s.cnt ∧ t.frameL = s.frameL ∧
    t.cfg = s.cfg ∧ t.inputs = s.inputs ∧
    (s.busy = false → t.busy = false ∧ t.pinLevel = s.pinLevel ∧ t.fault = s.fault ∧
      ((∀ p, i ≠ .settemp p) → t.draws = s.draws)) ∧
    (s.busy = true → t.devid = s.devid ∧ t.hum = s.hum ∧ t.tempw = s.tempw) ∧
    (∀ r, s.fault = some r → t = s)

/-- Only the latest call of a setter counts: a setter run twice leaves what the second call alone leaves (SETTEMP: from
the draw counter that the first call left). With equal operands this is the setters' idempotence, but for a SETTEMP whose
`S` and `M` are draws: a repeated one draws afresh (the model's choice, log 28). -/
def Obligations.LatestSetterCounts : Prop :=
  ∀ s t : State, s.fault = none → s.busy = false →
    (∀ a b, exec (.setid a) s = .next t → exec (.setid b) t = exec (.setid b) s) ∧
    (∀ a b, exec (.sethum a) s = .next t → exec (.sethum b) t = exec (.sethum b) s) ∧
    (∀ a b, exec (.settemp a) s = .next t → exec (.settemp b) t = exec (.settemp b) { s with draws := t.draws })

/-- `HUM ≤ 100` at every instant: reset writes 0, no step writes more than 100, and so it is in every run from reset,
whatever the host presents; SEND sends it as bits 15:8. -/
def Obligations.HumidityAtMost100 : Prop :=
  (∀ c s t, resetWith c s = .next t → t.hum = 0) ∧
  (∀ s t, step s = .next t → s.hum.toNat ≤ 100 → t.hum.toNat ≤ 100) ∧
  (∀ k inputs t, runSteps k { State.reset with inputs := inputs } = .next t → t.hum.toNat ≤ 100) ∧
  (∀ d w h, (frame d w h).toNat / 2 ^ 8 % 2 ^ 8 = h.toNat)

/-- `TEMPW[3:0] = 0` at every instant, in the same way; SEND sends all 16 bits as bits 31:16. -/
def Obligations.TemperatureLowBitsZero : Prop :=
  (∀ c s t, resetWith c s = .next t → t.tempw = 0) ∧
  (∀ s t, step s = .next t → tempLow s.tempw = 0 → tempLow t.tempw = 0) ∧
  (∀ k inputs t, runSteps k { State.reset with inputs := inputs } = .next t → tempLow t.tempw = 0) ∧
  (∀ d w h, (frame d w h).toNat / 2 ^ 16 % 2 ^ 16 = w.toNat)

/-! ### The serializer -/

/-- The frame: its number and its six fields. -/
def Obligations.FrameLayout : Prop :=
  ∀ (d : Byte) (w : TempWord) (h : Byte),
    let f := frame d w h
    f.toNat = 0xFF * 2 ^ 44 + d.toNat * 2 ^ 32 + w.toNat * 2 ^ 16 + h.toNat * 2 ^ 8 + 0xFF ∧
    f.extractLsb' 44 8 = 0xFF#8 ∧ f.extractLsb' 40 4 = 0x0#4 ∧ f.extractLsb' 32 8 = d ∧
    f.extractLsb' 16 16 = w ∧ f.extractLsb' 8 8 = h ∧ f.extractLsb' 0 8 = 0xFF#8

/-- The bits in the order sent: most significant bit first within each field, the fields in frame order. -/
def Obligations.FrameBitsInOrderSent : Prop :=
  ∀ (d : Byte) (w : TempWord) (h : Byte) (i : Nat),
    let b := bitSent (frame d w h) i
    b = (frame d w h).getLsbD (51 - i) ∧ (i < 8 → b = true) ∧ (8 ≤ i → i < 12 → b = false) ∧
    (12 ≤ i → i < 20 → b = d.getLsbD (19 - i)) ∧ (20 ≤ i → i < 36 → b = w.getLsbD (35 - i)) ∧
    (36 ≤ i → i < 44 → b = h.getLsbD (43 - i)) ∧ (44 ≤ i → i < 52 → b = true)

/-- The segment list of a frame: 105 segments, two for each bit by its value, then the stop. -/
def Obligations.SegmentListOfFrame : Prop :=
  ∀ (pl : Nat) (f : Frame),
    (segs pl f).length = 105 ∧
    (∀ i, i < 52 →
      (segs pl f)[2 * i]? = some { level := .high, dur := if f.getLsbD (51 - i) then 1 * pl else 3 * pl } ∧
      (segs pl f)[2 * i + 1]? = some { level := .low, dur := 2 * pl }) ∧
    (segs pl f)[104]? = some { level := .low, dur := 9 * pl }

/-- The duration of one frame is `(165 + 2 × Z) × PL`. -/
def Obligations.FrameDuration : Prop :=
  ∀ (pl : Nat) (f : Frame), duration (segs pl f) = (165 + 2 * zeroBits f) * pl

/-- With the fields' invariants, `Z` is at least 10 and at most 36, and both bounds are met. -/
def Obligations.FrameZeroBitsRange : Prop :=
  (∀ (d : Byte) (w : TempWord) (h : Byte), h.toNat ≤ 100 → tempLow w = 0 →
    10 ≤ zeroBits (frame d w h) ∧ zeroBits (frame d w h) ≤ 36) ∧
  zeroBits (frame 0xFF#8 0xFFF0#16 95#8) = 10 ∧ zeroBits (frame 0 0 0) = 36

/-- The waveform of a SEND: `105 × REPEAT` segments, segment `105 × r + k` is segment `k`, with nothing between
frames. -/
def Obligations.WaveIsFramesBackToBack : Prop :=
  ∀ (pl : Nat) (f : Frame) (n : Nat),
    (wave pl f n).length = 105 * n ∧
    (∀ (r : Nat) (k : Fin 105), r < n → (wave pl f n)[105 * r + k.val]? = some (segmentAt pl f k)) ∧
    duration (wave pl f n) = sendTime pl f n

/-- The merged waveform: each frame is 52 HIGH segments alternating with 52 LOW ones, every LOW 2×PL but the last,
11×PL; frames do not merge into each other; a HIGH before the first frame merges with its first segment. -/
def Obligations.MergedWaveform : Prop :=
  ∀ (pl : Nat) (f : Frame) (n d : Nat),
    (merged (segs pl f)).length = 104 ∧
    (∀ i, i < 52 →
      (merged (segs pl f))[2 * i]? = some { level := .high, dur := if bitSent f i then 1 * pl else 3 * pl } ∧
      (merged (segs pl f))[2 * i + 1]? = some { level := .low, dur := if i = 51 then 11 * pl else 2 * pl }) ∧
    merged (wave pl f n) = (List.replicate n (merged (segs pl f))).flatten ∧
    merged ({ level := .high, dur := d } :: wave pl f (n + 1)) =
      { level := .high, dur := d + (highSegment pl (bitSent f 0)).dur } :: (merged (wave pl f (n + 1))).tail

/-- The canonical primitive trace: at reset the configuration of the pin; for a SEND, frame by frame, for each bit a HIGH
write with its delay and a LOW write with its delay, then the stop. -/
def Obligations.PrimitiveTraceOfSend : Prop :=
  ∀ (pin : PinId) (pl : Nat) (f : Frame) (n : Nat),
    resetTrace pin = [.configureOutput pin] ∧
    primitiveTrace pin (wave pl f n) = (List.replicate n (
      (List.range 52).flatMap (fun i =>
        [.writeDigital pin .high, .delayMicroseconds (if f.getLsbD (51 - i) then 1 * pl else 3 * pl),
         .writeDigital pin .low, .delayMicroseconds (2 * pl)]) ++
      [.writeDigital pin .low, .delayMicroseconds (9 * pl)])).flatten

/-! ### SEND and the timing controller -/

/-- SEND: its word, and no other with its opcode; a ready core latches the frame (in R45's number), raises `BUSY` and
starts the first segment (HIGH, 1×PL) of frame 0; the only other outcomes are those of the acceptance checks. -/
def Obligations.SendLatchesFrameAndStarts : Prop :=
  decode (wordOf 0x04 0) = .ok .send ∧
  (∀ opd, 1 ≤ opd → opd < 2 ^ 32 → FaultsAsIllegal (wordOf 0x04 opd)) ∧
  RunsAs .send fun s => { s with
    frameL := BitVec.ofNat 52
      (0xFF * 2 ^ 44 + s.devid.toNat * 2 ^ 32 + s.tempw.toNat * 2 ^ 16 + s.hum.toNat * 2 ^ 8 + 0xFF)
    busy := true
    rep := 0
    seg := 0
    pinLevel := .high
    cnt := 1 * s.cfg.pulseLength }

/-- The frame of SEND, whatever the state it runs in: it reads the data fields and writes none of them, nor the
configuration; on a core that is not busy it leaves `FAULT` and draws nothing; on a busy core it does not touch the
sequencer. -/
def Obligations.SendFrameCondition : Prop :=
  ∀ s t : State, exec .send s = .next t →
    t.devid = s.devid ∧ t.hum = s.hum ∧ t.tempw = s.tempw ∧ t.repeatCount = s.repeatCount ∧
    t.pin = s.pin ∧ t.pinDir = s.pinDir ∧ t.cfg = s.cfg ∧ t.inputs = s.inputs ∧
    (s.busy = false → t.fault = s.fault ∧ t.draws = s.draws) ∧
    (s.busy = true → t.rep = s.rep ∧ t.seg = s.seg ∧ t.cnt = s.cnt ∧ t.frameL = s.frameL) ∧
    (∀ r, s.fault = some r → t = s)

/-- Without a reset and without a command a step is one tick, in every state, idle, busy or faulted: when the host
presents nothing more, and when its next entry is a wait, which is then taken away. And the tick of a busy core without
a fault, as a whole next state in each of its cases: within a segment; at the end of a segment that is not the stop; at
the stop of a frame that is not the last; at the stop of the last frame. The last two clauses are the states that the ranges of spec/10_state.md R24 rule out: a `REP` already at `REPEAT`, and `CNT` = 0, on which
the model stops (log 12). What `REP`, `SEG` and `CNT` hold once `BUSY` is 0 is the model's reading of the pseudocode
(log 17). -/
def Obligations.TimingControllerTick : Prop :=
  ∀ s : State,
    (s.inputs = [] → step s = tick s) ∧
    (∀ rest, s.inputs = HostInput.wait :: rest → step s = tick { s with inputs := rest }) ∧
    (s.fault = none → s.busy = true →
      (2 ≤ s.cnt → tick s = .next { s with cnt := s.cnt - 1 }) ∧
      (s.cnt = 1 → ∀ h : s.seg.val < 104, s.rep ≠ s.repeatCount →
        let g := segmentAt s.cfg.pulseLength s.frameL ⟨s.seg.val + 1, by omega⟩
        tick s = .next { s with seg := ⟨s.seg.val + 1, by omega⟩, pinLevel := g.level, cnt := g.dur }) ∧
      (s.cnt = 1 → s.seg.val = 104 → s.rep + 1 ≠ s.repeatCount →
        let g := segmentAt s.cfg.pulseLength s.frameL 0
        tick s = .next { s with seg := 0, rep := s.rep + 1, pinLevel := g.level, cnt := g.dur }) ∧
      (s.cnt = 1 → s.seg.val = 104 → s.rep + 1 = s.repeatCount →
        tick s = .next { s with seg := 0, rep := s.rep + 1, cnt := 0, busy := false }) ∧
      (s.cnt = 1 → ∀ h : s.seg.val < 104, s.rep = s.repeatCount →
        tick s = .next { s with seg := ⟨s.seg.val + 1, by omega⟩, cnt := 0, busy := false }) ∧
      (s.cnt = 0 → tick s = .fault .sequencerOutOfRange))

/-- The whole emission of a SEND, while the host presents nothing: either its next command comes after `m ≥ TT`
microseconds, or it presents nothing more. In each microsecond `u` of `[0, TT)` after acceptance the core is busy and
the pin has the level that `WAVE` has there; at `TT`, and from then on until the host presents its next command, it is
idle with the pin LOW and has that command still before it, and nothing but the pin, `BUSY` and the sequencer has
changed. (Where `REP`, `SEG`, `CNT` and `FRAME_L` end is left open here.) -/
def Obligations.PinFollowsWaveform : Prop :=
  ∀ (s : State) (m : Nat) (rest : List HostInput),
    s.fault = none → s.busy = false → 1 ≤ s.repeatCount → 0 < s.cfg.pulseLength →
    s.inputs = List.replicate m HostInput.wait ++ rest →
    let f := frame s.devid s.tempw s.hum
    let w := wave s.cfg.pulseLength f s.repeatCount
    let tt := sendTime s.cfg.pulseLength f s.repeatCount
    tt ≤ m ∨ rest = [] →
    ∃ t0, exec .send s = .next t0 ∧
      (∀ u, u < tt → ∃ t, runSteps u t0 = .next t ∧ t.busy = true ∧ t.fault = none ∧
        levelAt w u = some t.pinLevel) ∧
      (∃ rep seg cnt fl, ∀ v, tt + v ≤ m ∨ rest = [] → runSteps (tt + v) t0 = .next { s with
        pinLevel := .low, busy := false, rep := rep, seg := seg, cnt := cnt, frameL := fl
        inputs := List.replicate (m - (tt + v)) HostInput.wait ++ rest })

/-- The busy window of a SEND is exactly `[0, TT)`: a command that the host presents `n` microseconds after acceptance
faults, with `CommandWhileBusy`, for every `n < TT`, and at `TT` itself, at the very tick at which `BUSY` falls, it is
executed, to a next state without a fault. -/
def Obligations.BusyWindowOfSend : Prop :=
  ∀ (s : State) (n : Nat) (cw : CmdWord) (i : Instr) (rest : List HostInput),
    s.fault = none → s.busy = false → 1 ≤ s.repeatCount → 0 < s.cfg.pulseLength → decode cw = .ok i →
    s.inputs = List.replicate n HostInput.wait ++ HostInput.present cw :: rest →
    let tt := sendTime s.cfg.pulseLength (frame s.devid s.tempw s.hum) s.repeatCount
    ∃ t0, exec .send s = .next t0 ∧
      (n < tt → ∃ t, runSteps (n + 1) t0 = .next t ∧ t.fault = some { reason := .commandWhileBusy, cw := cw }) ∧
      (n = tt → ∃ u t, runSteps n t0 = .next u ∧ u.busy = false ∧ u.inputs = HostInput.present cw :: rest ∧
        step u = exec i { u with inputs := rest } ∧ step u = .next t ∧ t.fault = none)

/-- From the command word to the pin: a ready core to which the host presents the SEND word shows, over the steps that
run it to its end, exactly the merged waveform of its fields, and the run has then ended successfully with the fields
as they were. (The observed waveform is one sample a microsecond, merged: log 24.) -/
def Obligations.SendWordShowsMergedWave : Prop :=
  ∀ s : State, s.fault = none → s.busy = false → s.inputs = [] → 1 ≤ s.repeatCount → 0 < s.cfg.pulseLength →
    let f := frame s.devid s.tempw s.hum
    let k := 1 + sendTime s.cfg.pulseLength f s.repeatCount
    ∃ t, runSteps k (s.withFetchWord 40 0x0400000000) = .next t ∧ ended t = true ∧
      t.devid = s.devid ∧ t.hum = s.hum ∧ t.tempw = s.tempw ∧
      observed k (s.withFetchWord 40 0x0400000000) = merged (wave s.cfg.pulseLength f s.repeatCount)

/-- A whole run, from any state: a reset with a legal count, a wait of `w` microseconds, the three setters, a SEND, and
`m` microseconds more. When the SEND's time has passed the run has ended successfully, although waits may be left, and
its result is the line `PIN`, the fields, and the merged waveform: `INIT_LEVEL` for `w` microseconds, then the frames.
The operand of SETTEMP is any one whose sign and magnitude a rule gives. (The observed waveform is one sample a
microsecond since the latest reset, merged: log 24, log 27. `INIT_LEVEL` is a fresh draw: log 7.) -/
def Obligations.RunFromResetShowsMergedWave : Prop :=
  ∀ (s : State) (c : Construct) (w m : Nat) (id h : Byte) (t : Operand) (sign : BitVec 1) (mag : BitVec 11),
    0 < s.cfg.pulseLength → 1 ≤ c.n → c.n ≤ s.cfg.repeatMax →
    encodeTemperature s.cfg.tempProduct t = some (sign, mag) →
    s.inputs = HostInput.reset c :: (List.replicate w HostInput.wait ++
      [HostInput.present (encode (.setid id)), HostInput.present (encode (.sethum h)),
       HostInput.present (encode (.settemp t)), HostInput.present (encode .send)] ++
      List.replicate m HostInput.wait) →
    let hum := BitVec.ofNat 8 (min h.toNat 100)
    let f := frame id (packTemp sign mag) hum
    let idle : List Segment := if w = 0 then [] else [{ level := Config.drawInitLevel s.draws, dur := w }]
    runResult (1 + w + 4 + sendTime s.cfg.pulseLength f c.n.toNat) s = some {
      line := c.pin, waveform := merged (idle ++ wave s.cfg.pulseLength f c.n.toNat)
      devid := id, hum := hum, tempw := packTemp sign mag }

/-- The end of a run: no command is among the inputs to come, `BUSY` = 0 and `FAULT` = none, whatever waits are left;
and there is no run, hence no result, where no reset starts it, before that reset is taken, and where its count is
illegal and it is refused. -/
def Obligations.RunEndsAfterLastCommand : Prop :=
  ∀ s : State,
    (ended s = true ↔ (∀ x ∈ s.inputs, x.cmd = none) ∧ s.busy = false ∧ s.fault = none) ∧
    ((∀ x rest, s.inputs = x :: rest → x.rst = none) → ∀ k, runResult k s = none) ∧
    runResult 0 s = none ∧
    (∀ x rest c, s.inputs = x :: rest → x.rst = some c → (c.n < 1 ∨ s.cfg.repeatMax < c.n) →
      ∀ k, runResult k s = none)

/-- Two SENDs with no setter between them show the same waveform. -/
def Obligations.SecondSendRepeatsWaveform : Prop :=
  ∀ s : State, s.fault = none → s.busy = false → s.inputs = [] → 1 ≤ s.repeatCount → 0 < s.cfg.pulseLength →
    let k := 1 + sendTime s.cfg.pulseLength (frame s.devid s.tempw s.hum) s.repeatCount
    ∃ t, runSteps k (s.withFetchWord 40 0x0400000000) = .next t ∧
      observed k (t.withFetchWord 40 0x0400000000) = observed k (s.withFetchWord 40 0x0400000000)

/-- An idle core to which the host presents nothing holds every register and drives its pin as before. -/
def Obligations.IdleCoreHolds : Prop :=
  ∀ s : State, s.fault = none → s.busy = false →
    (s.inputs = [] → step s = .next s) ∧
    (∀ rest, s.inputs = HostInput.wait :: rest → step s = .next { s with inputs := rest })

/-! ### Faults -/

/-- Fault entry, and what follows it: the fault records the reason and the word; every field, the configuration and the
sequencer are left; if no SEND was in flight nothing else changes; if one was, the pin and `BUSY` are drawn, at that
instant and again with every microsecond. That `BUSY` too is drawn anew with every microsecond is the model's choice
(log 10), and so are the counter of the draws (log 8) and that the pin and `BUSY` are no draws where no SEND was in
flight (log 29). -/
def Obligations.FaultEntryIsPrecise : Prop :=
  ∀ (s : State) (reason : FaultReason) (cw : CmdWord),
    (raiseFault reason cw s).fault = some { reason := reason, cw := cw } ∧
    (s.busy = false → raiseFault reason cw s = { s with fault := some { reason := reason, cw := cw } }) ∧
    (s.busy = true → raiseFault reason cw s = { s with
      fault := some { reason := reason, cw := cw }
      pinLevel := Config.drawFaultedLevel s.draws
      busy := Config.drawFaultedBusy s.draws
      draws := s.draws + 1 }) ∧
    (s.fault = some { reason := .commandWhileBusy, cw := cw } → ∃ t, tick s = .next t ∧
      t.pinLevel = Config.drawFaultedLevel s.draws ∧ t.busy = Config.drawFaultedBusy s.draws ∧
      t.draws = s.draws + 1 ∧ t.fault = s.fault)

/-- The faults there are: a fault arises only from a command word presented without a reset, is recorded with that
whole word, is `CommandWhileBusy` (code 2) on a busy core and otherwise `IllegalCommand` (code 1) of an illegal word. -/
def Obligations.FaultOnlyByMisuse : Prop :=
  FaultReason.illegalCommand.code = 1 ∧ FaultReason.commandWhileBusy.code = 2 ∧
  ∀ (s t : State) (r : FaultRecord), step s = .next t → s.fault = none → t.fault = some r →
    ∃ x rest, s.inputs = x :: rest ∧ x.rst = none ∧ x.cmd = some r.cw ∧
      (s.busy = true → r.reason = .commandWhileBusy) ∧
      (s.busy = false → r.reason = .illegalCommand ∧ r.cw.legal = false)

/-- A fault stays, with its reason and word, until a reset; a command has no effect on a faulted core; a faulted core is
no successful end of a run; the fields and the configuration stay as well. -/
def Obligations.FaultStaysUntilReset : Prop :=
  ∀ (s t : State) (r : FaultRecord), s.fault = some r →
    (∀ cw, present cw s = .next s) ∧ ended s = false ∧
    (step s = .next t → (∀ x rest, s.inputs = x :: rest → x.rst = none) →
      t.fault = some r ∧ t.devid = s.devid ∧ t.hum = s.hum ∧ t.tempw = s.tempw ∧ t.repeatCount = s.repeatCount ∧
      t.pin = s.pin ∧ t.pinDir = s.pinDir ∧ t.cfg = s.cfg) ∧
    (∀ x rest c, s.inputs = x :: rest → x.rst = some c → step s = .next t → t.fault = none)

/-! ### Reset -/

/-- Reset with a legal count, from any state, idle, sending or faulted, and whatever command the host presents at the
same instant: every register has its reset value. (`INIT_LEVEL` is a draw; the sequencer's zeros are the model's choice,
log 6, and the spec leaves them unspecified.) -/
def Obligations.ResetSetsEveryField : Prop :=
  ∀ (s : State) (x : HostInput) (rest : List HostInput) (c : Construct),
    s.inputs = x :: rest → x.rst = some c → 1 ≤ c.n → c.n ≤ s.cfg.repeatMax →
    ∃ t, step s = .next t ∧
      t.pin = c.pin ∧ t.pinDir = .output ∧ t.pinLevel = Config.drawInitLevel s.draws ∧ t.devid = c.id0 ∧ t.hum = 0 ∧
      t.tempw = 0x0000#16 ∧ (t.repeatCount : ℤ) = c.n ∧ t.busy = false ∧ t.fault = none ∧
      t.cfg = s.cfg ∧ t.inputs = rest ∧ t.draws = s.draws + 1

/-- A reset is refused exactly when its count is below 1 or above `REPEAT_MAX`, whatever `PIN` and `ID0` are. -/
def Obligations.ResetRefusesIllegalCount : Prop :=
  ∀ (s : State) (x : HostInput) (rest : List HostInput) (c : Construct),
    s.inputs = x :: rest → x.rst = some c →
    ((c.n < 1 ∨ s.cfg.repeatMax < c.n) → step s = .refused (.illegalRepeatCount c.n)) ∧
    (¬ (c.n < 1 ∨ s.cfg.repeatMax < c.n) → ∃ t, step s = .next t)

/-- Nothing from before a reset survives it: two cores of the same parameters, with the same host to come and the same
draw to come, are in the same state after it. (That the sequencer registers, which the spec leaves unspecified after
reset, are the same is the model's choice: log 6 zeroes them.) -/
def Obligations.NothingSurvivesReset : Prop :=
  ∀ (s t : State) (x : HostInput) (c : Construct),
    s.cfg = t.cfg → s.draws = t.draws → s.inputs = t.inputs → s.inputs.head? = some x → x.rst = some c →
    step s = step t

/-- The state after reset: the values that the spec gives, and the agreement of `State.reset` with the reset operation.
The construction parameters (log 4), the zeros of the sequencer registers (log 6) and the number of the draw (log 8) are
the model's choice. -/
def Obligations.ResetStateValues : Prop :=
  State.reset.hum = 0 ∧ State.reset.tempw = 0x0000#16 ∧ State.reset.pinDir = .output ∧ State.reset.busy = false ∧
  State.reset.fault = none ∧
  ∀ s : State, s.cfg = Config.default → s.draws = 0 → s.inputs = [] →
    resetWith { pin := State.reset.pin, id0 := State.reset.devid, n := State.reset.repeatCount } s = .next State.reset

/-- A SEND straight after reset is legal: it starts, and sends the reset values. (`ID0` = 0 and `N` = 1 are the
parameters of log 4.) -/
def Obligations.SendStraightAfterReset : Prop :=
  ∃ t, step (State.reset.withFetchWord 40 0x0400000000) = .next t ∧ t.busy = true ∧ t.frameL = 0xFF000000000FF#52

/-! ### The whole machine -/

/-- The invariant holds at reset. -/
def Obligations.InvariantAtReset : Prop := CoreInv State.reset

/-- Every step keeps the invariant, from every state that meets it, whatever the host presents. (That `BUSY` stays 0 on
a core that an illegal word has faulted is the model's choice, log 29.) -/
def Obligations.StepKeepsInvariant : Prop := ∀ s t : State, CoreInv s → step s = .next t → CoreInv t

/-- From a state that meets the invariant a step always answers a next state, but for a reset with an illegal count,
which is refused by name: no command, no tick and no other reset stops the model. -/
def Obligations.StepAlwaysGoesOn : Prop :=
  ∀ s : State, CoreInv s →
    (∃ t, step s = .next t) ∨
    ∃ x rest c, s.inputs = x :: rest ∧ x.rst = some c ∧ c.wf s.cfg.repeatMax = false ∧
      step s = .refused (.illegalRepeatCount c.n)

/-- A host that keeps its duty never faults the core, however long the run. -/
def Obligations.DutifulHostNeverFaults : Prop :=
  ∀ (k : Nat) (s : State), CoreInv s → s.fault = none → KeepsDutyFor k s →
    ∃ t, runSteps k s = .next t ∧ t.fault = none

/-- The configuration changes only at a reset: no command and no tick writes `REPEAT`, `PIN`, `PIN_DIR` or the
parameters of the instance; the parameters not even a reset. -/
def Obligations.ConfigurationOnlyByReset : Prop :=
  ∀ s t : State, step s = .next t →
    t.cfg = s.cfg ∧
    ((∀ x rest, s.inputs = x :: rest → x.rst = none) →
      t.repeatCount = s.repeatCount ∧ t.pin = s.pin ∧ t.pinDir = s.pinDir)

/-- What moves the pin level: a reset; an accepted SEND; the tick that ends a segment of a SEND in flight; a command
word during a SEND, which faults; and the ticks of a core that such a word has faulted. Every other step leaves it. (That the pin holds on an idle
core that an illegal word has faulted is the model's choice, log 29.) -/
def Obligations.PinMovesOnlyBySend : Prop :=
  ∀ s t : State, step s = .next t → t.pinLevel ≠ s.pinLevel →
    (∃ x rest c, s.inputs = x :: rest ∧ x.rst = some c) ∨
    (s.fault = none ∧ s.busy = false ∧
      ∃ x rest, s.inputs = x :: rest ∧ x.rst = none ∧ x.cmd = some (encode .send)) ∨
    (s.fault = none ∧ s.busy = true ∧ s.cnt = 1 ∧ passesMicrosecond s = true) ∨
    (s.fault = none ∧ s.busy = true ∧ ∃ x rest cw, s.inputs = x :: rest ∧ x.rst = none ∧ x.cmd = some cw ∧
      t.fault = some { reason := .commandWhileBusy, cw := cw }) ∨
    ((∃ cw, s.fault = some { reason := .commandWhileBusy, cw := cw }) ∧ passesMicrosecond s = true)

/-- What raises `BUSY`, on a core that is not faulted: only an accepted SEND. -/
def Obligations.BusyRisesOnlyBySend : Prop :=
  ∀ s t : State, step s = .next t → s.fault = none → s.busy = false → t.busy = true →
    ∃ x rest, s.inputs = x :: rest ∧ x.rst = none ∧ x.cmd = some (encode .send)

/-- The output ports show the status and the pin. -/
def Obligations.OutputPortsShowStatus : Prop :=
  ∀ s : State, CoreInv s →
    outPorts s = { busy := s.busy, fault := s.fault, pinOe := true, pinOut := s.pinLevel, line := s.pin }

/-! ### The assembler -/

/-- Each form of the assembler syntax gives the word that R51 gives it, and an `<imm8>` outside 0 to 255 is an
error. -/
def Obligations.AssemblerWords : Prop :=
  (∀ n : Int, 0 ≤ n → n ≤ 255 →
    (assemble (.setid n)).map encode = some (wordOf 0x01 n.toNat) ∧
    (assemble (.sethum n)).map encode = some (wordOf 0x02 n.toNat)) ∧
  (∀ n : Int, n < 0 ∨ 255 < n → assemble (.setid n) = none ∧ assemble (.sethum n) = none) ∧
  (∀ t : Operand, (assemble (.settempRaw t)).map encode = some (wordOf 0x03 t.toNat)) ∧
  (assemble .send).map encode = some (wordOf 0x04 0) ∧
  (∀ d t, bits32 d = some t → (assemble (.settempReal d)).map encode = some (wordOf 0x03 t.toNat))

/-- `bits32`: a decimal literal gives the binary32 nearest to it, ties to even, with the literal's sign; a literal that
rounds to no finite binary32 is an error (the model's choice, log 18), and no other is. -/
def Obligations.LiteralGivesNearestBinary32 : Prop :=
  ∀ d : Decimal,
    let v : ℚ := d.digits * (10 : ℚ) ^ d.exp10
    let quantum := (2 : ℚ) ^ (max (Int.log 2 v) (-126) - 23)
    (bits32 d = none ↔ (2 - 1 / 2 ^ 24) * 2 ^ 127 ≤ v) ∧
    ∀ t, bits32 d = some t →
      (floatSign t = 1 ↔ d.neg = true) ∧
      ∃ q, floatValue t = .finite q ∧ (v = 0 → q = 0) ∧
        (v ≠ 0 → ∃ n : Nat, RoundsTo n (v / quantum) ∧ |q| = n * quantum)
end

