-- ==== Sys2Proof/Laws/Encoding.lean ====
section
/-! SUPPORT. The fields of a command word and the words of the commands, as numbers, so that a claim about an encoding
is one of arithmetic. -/

namespace Sys2Proof

/-- `{a, b}` as a number (spec/00_scope.md R10). -/
theorem toNat_concat {m n : Nat} (a : BitVec m) (b : BitVec n) : (a ++ b).toNat = a.toNat * 2 ^ n + b.toNat := by
  rw [BitVec.toNat_append, ← Nat.shiftLeft_add_eq_or_of_lt b.isLt, Nat.shiftLeft_eq]

/-- `v[hi:lo]` as a number (spec/00_scope.md R9). -/
theorem toNat_slice {n : Nat} (v : BitVec n) (lo len : Nat) :
    (v.extractLsb' lo len).toNat = v.toNat / 2 ^ lo % 2 ^ len := by
  rw [BitVec.extractLsb'_toNat, Nat.shiftRight_eq_div_pow]

theorem opcodeField_toNat (cw : CmdWord) : (opcodeField cw).toNat = cw.toNat / 2 ^ 32 := by
  have h := cw.isLt
  rw [opcodeField, toNat_slice]; omega

theorem operandField_toNat (cw : CmdWord) : (operandField cw).toNat = cw.toNat % 2 ^ 32 := by
  rw [operandField, toNat_slice]; omega

theorem operandHigh_toNat (cw : CmdWord) : (operandHigh cw).toNat = cw.toNat / 2 ^ 8 % 2 ^ 24 := by
  rw [operandHigh, toNat_slice]

theorem operandLow_toNat (cw : CmdWord) : (operandLow cw).toNat = cw.toNat % 2 ^ 8 := by
  rw [operandLow, toNat_slice]; omega

theorem encode_setid_toNat (id : Byte) : (encode (.setid id)).toNat = 0x01 * 2 ^ 32 + id.toNat := by
  simp only [encode, toNat_concat, BitVec.toNat_ofNat]; omega

theorem encode_sethum_toNat (h : Byte) : (encode (.sethum h)).toNat = 0x02 * 2 ^ 32 + h.toNat := by
  simp only [encode, toNat_concat, BitVec.toNat_ofNat]; omega

theorem encode_settemp_toNat (t : Operand) : (encode (.settemp t)).toNat = 0x03 * 2 ^ 32 + t.toNat := by
  simp only [encode, toNat_concat, BitVec.toNat_ofNat]

theorem encode_send_toNat : (encode .send).toNat = 0x04 * 2 ^ 32 := by
  simp only [encode, toNat_concat, BitVec.toNat_ofNat]; omega

end Sys2Proof
end

