-- ==== Sys2Proof/Laws/State.lean ====
section
/-! SUPPORT. What each update of State gives for each field, one lemma a field, so that no later proof unfolds a record
update. The updates that choose between others (`raiseFault`, `writeTemperature`, `endSegment`) have a lemma for each
field that they leave; their cases are in Laws/Ops.lean. -/

namespace Sys2Proof.Machine

/-! ### setDevid: `DEVID <- id` -/

@[simp] theorem setDevid_devid (id : Byte) (s : State) : (setDevid id s).devid = id := rfl
@[simp] theorem setDevid_hum (id : Byte) (s : State) : (setDevid id s).hum = s.hum := rfl
@[simp] theorem setDevid_tempw (id : Byte) (s : State) : (setDevid id s).tempw = s.tempw := rfl
@[simp] theorem setDevid_repeatCount (id : Byte) (s : State) : (setDevid id s).repeatCount = s.repeatCount := rfl
@[simp] theorem setDevid_pin (id : Byte) (s : State) : (setDevid id s).pin = s.pin := rfl
@[simp] theorem setDevid_pinDir (id : Byte) (s : State) : (setDevid id s).pinDir = s.pinDir := rfl
@[simp] theorem setDevid_pinLevel (id : Byte) (s : State) : (setDevid id s).pinLevel = s.pinLevel := rfl
@[simp] theorem setDevid_busy (id : Byte) (s : State) : (setDevid id s).busy = s.busy := rfl
@[simp] theorem setDevid_fault (id : Byte) (s : State) : (setDevid id s).fault = s.fault := rfl
@[simp] theorem setDevid_rep (id : Byte) (s : State) : (setDevid id s).rep = s.rep := rfl
@[simp] theorem setDevid_seg (id : Byte) (s : State) : (setDevid id s).seg = s.seg := rfl
@[simp] theorem setDevid_cnt (id : Byte) (s : State) : (setDevid id s).cnt = s.cnt := rfl
@[simp] theorem setDevid_frameL (id : Byte) (s : State) : (setDevid id s).frameL = s.frameL := rfl
@[simp] theorem setDevid_cfg (id : Byte) (s : State) : (setDevid id s).cfg = s.cfg := rfl
@[simp] theorem setDevid_inputs (id : Byte) (s : State) : (setDevid id s).inputs = s.inputs := rfl
@[simp] theorem setDevid_draws (id : Byte) (s : State) : (setDevid id s).draws = s.draws := rfl

/-! ### setHum: `HUM <- v` -/

@[simp] theorem setHum_devid (v : Byte) (s : State) : (setHum v s).devid = s.devid := rfl
@[simp] theorem setHum_hum (v : Byte) (s : State) : (setHum v s).hum = v := rfl
@[simp] theorem setHum_tempw (v : Byte) (s : State) : (setHum v s).tempw = s.tempw := rfl
@[simp] theorem setHum_repeatCount (v : Byte) (s : State) : (setHum v s).repeatCount = s.repeatCount := rfl
@[simp] theorem setHum_pin (v : Byte) (s : State) : (setHum v s).pin = s.pin := rfl
@[simp] theorem setHum_pinDir (v : Byte) (s : State) : (setHum v s).pinDir = s.pinDir := rfl
@[simp] theorem setHum_pinLevel (v : Byte) (s : State) : (setHum v s).pinLevel = s.pinLevel := rfl
@[simp] theorem setHum_busy (v : Byte) (s : State) : (setHum v s).busy = s.busy := rfl
@[simp] theorem setHum_fault (v : Byte) (s : State) : (setHum v s).fault = s.fault := rfl
@[simp] theorem setHum_rep (v : Byte) (s : State) : (setHum v s).rep = s.rep := rfl
@[simp] theorem setHum_seg (v : Byte) (s : State) : (setHum v s).seg = s.seg := rfl
@[simp] theorem setHum_cnt (v : Byte) (s : State) : (setHum v s).cnt = s.cnt := rfl
@[simp] theorem setHum_frameL (v : Byte) (s : State) : (setHum v s).frameL = s.frameL := rfl
@[simp] theorem setHum_cfg (v : Byte) (s : State) : (setHum v s).cfg = s.cfg := rfl
@[simp] theorem setHum_inputs (v : Byte) (s : State) : (setHum v s).inputs = s.inputs := rfl
@[simp] theorem setHum_draws (v : Byte) (s : State) : (setHum v s).draws = s.draws := rfl

/-! ### setTempw: `TEMPW <- w` -/

@[simp] theorem setTempw_devid (w : TempWord) (s : State) : (setTempw w s).devid = s.devid := rfl
@[simp] theorem setTempw_hum (w : TempWord) (s : State) : (setTempw w s).hum = s.hum := rfl
@[simp] theorem setTempw_tempw (w : TempWord) (s : State) : (setTempw w s).tempw = w := rfl
@[simp] theorem setTempw_repeatCount (w : TempWord) (s : State) : (setTempw w s).repeatCount = s.repeatCount := rfl
@[simp] theorem setTempw_pin (w : TempWord) (s : State) : (setTempw w s).pin = s.pin := rfl
@[simp] theorem setTempw_pinDir (w : TempWord) (s : State) : (setTempw w s).pinDir = s.pinDir := rfl
@[simp] theorem setTempw_pinLevel (w : TempWord) (s : State) : (setTempw w s).pinLevel = s.pinLevel := rfl
@[simp] theorem setTempw_busy (w : TempWord) (s : State) : (setTempw w s).busy = s.busy := rfl
@[simp] theorem setTempw_fault (w : TempWord) (s : State) : (setTempw w s).fault = s.fault := rfl
@[simp] theorem setTempw_rep (w : TempWord) (s : State) : (setTempw w s).rep = s.rep := rfl
@[simp] theorem setTempw_seg (w : TempWord) (s : State) : (setTempw w s).seg = s.seg := rfl
@[simp] theorem setTempw_cnt (w : TempWord) (s : State) : (setTempw w s).cnt = s.cnt := rfl
@[simp] theorem setTempw_frameL (w : TempWord) (s : State) : (setTempw w s).frameL = s.frameL := rfl
@[simp] theorem setTempw_cfg (w : TempWord) (s : State) : (setTempw w s).cfg = s.cfg := rfl
@[simp] theorem setTempw_inputs (w : TempWord) (s : State) : (setTempw w s).inputs = s.inputs := rfl
@[simp] theorem setTempw_draws (w : TempWord) (s : State) : (setTempw w s).draws = s.draws := rfl

/-! ### drawTempw: the draw of `TEMPW` -/

@[simp] theorem drawTempw_devid (s : State) : (drawTempw s).devid = s.devid := rfl
@[simp] theorem drawTempw_hum (s : State) : (drawTempw s).hum = s.hum := rfl
@[simp] theorem drawTempw_tempw (s : State) :
    (drawTempw s).tempw = packTemp (Config.drawSign s.draws) (Config.drawMagnitude s.draws) := rfl
@[simp] theorem drawTempw_repeatCount (s : State) : (drawTempw s).repeatCount = s.repeatCount := rfl
@[simp] theorem drawTempw_pin (s : State) : (drawTempw s).pin = s.pin := rfl
@[simp] theorem drawTempw_pinDir (s : State) : (drawTempw s).pinDir = s.pinDir := rfl
@[simp] theorem drawTempw_pinLevel (s : State) : (drawTempw s).pinLevel = s.pinLevel := rfl
@[simp] theorem drawTempw_busy (s : State) : (drawTempw s).busy = s.busy := rfl
@[simp] theorem drawTempw_fault (s : State) : (drawTempw s).fault = s.fault := rfl
@[simp] theorem drawTempw_rep (s : State) : (drawTempw s).rep = s.rep := rfl
@[simp] theorem drawTempw_seg (s : State) : (drawTempw s).seg = s.seg := rfl
@[simp] theorem drawTempw_cnt (s : State) : (drawTempw s).cnt = s.cnt := rfl
@[simp] theorem drawTempw_frameL (s : State) : (drawTempw s).frameL = s.frameL := rfl
@[simp] theorem drawTempw_cfg (s : State) : (drawTempw s).cfg = s.cfg := rfl
@[simp] theorem drawTempw_inputs (s : State) : (drawTempw s).inputs = s.inputs := rfl
@[simp] theorem drawTempw_draws (s : State) : (drawTempw s).draws = s.draws + 1 := rfl

/-! ### setFault: `FAULT <- r` -/

@[simp] theorem setFault_devid (r : FaultRecord) (s : State) : (setFault r s).devid = s.devid := rfl
@[simp] theorem setFault_hum (r : FaultRecord) (s : State) : (setFault r s).hum = s.hum := rfl
@[simp] theorem setFault_tempw (r : FaultRecord) (s : State) : (setFault r s).tempw = s.tempw := rfl
@[simp] theorem setFault_repeatCount (r : FaultRecord) (s : State) : (setFault r s).repeatCount = s.repeatCount := rfl
@[simp] theorem setFault_pin (r : FaultRecord) (s : State) : (setFault r s).pin = s.pin := rfl
@[simp] theorem setFault_pinDir (r : FaultRecord) (s : State) : (setFault r s).pinDir = s.pinDir := rfl
@[simp] theorem setFault_pinLevel (r : FaultRecord) (s : State) : (setFault r s).pinLevel = s.pinLevel := rfl
@[simp] theorem setFault_busy (r : FaultRecord) (s : State) : (setFault r s).busy = s.busy := rfl
@[simp] theorem setFault_fault (r : FaultRecord) (s : State) : (setFault r s).fault = some r := rfl
@[simp] theorem setFault_rep (r : FaultRecord) (s : State) : (setFault r s).rep = s.rep := rfl
@[simp] theorem setFault_seg (r : FaultRecord) (s : State) : (setFault r s).seg = s.seg := rfl
@[simp] theorem setFault_cnt (r : FaultRecord) (s : State) : (setFault r s).cnt = s.cnt := rfl
@[simp] theorem setFault_frameL (r : FaultRecord) (s : State) : (setFault r s).frameL = s.frameL := rfl
@[simp] theorem setFault_cfg (r : FaultRecord) (s : State) : (setFault r s).cfg = s.cfg := rfl
@[simp] theorem setFault_inputs (r : FaultRecord) (s : State) : (setFault r s).inputs = s.inputs := rfl
@[simp] theorem setFault_draws (r : FaultRecord) (s : State) : (setFault r s).draws = s.draws := rfl

/-! ### drawPinAndBusy: the draw of the pin and `BUSY` -/

@[simp] theorem drawPinAndBusy_devid (s : State) : (drawPinAndBusy s).devid = s.devid := rfl
@[simp] theorem drawPinAndBusy_hum (s : State) : (drawPinAndBusy s).hum = s.hum := rfl
@[simp] theorem drawPinAndBusy_tempw (s : State) : (drawPinAndBusy s).tempw = s.tempw := rfl
@[simp] theorem drawPinAndBusy_repeatCount (s : State) : (drawPinAndBusy s).repeatCount = s.repeatCount := rfl
@[simp] theorem drawPinAndBusy_pin (s : State) : (drawPinAndBusy s).pin = s.pin := rfl
@[simp] theorem drawPinAndBusy_pinDir (s : State) : (drawPinAndBusy s).pinDir = s.pinDir := rfl
@[simp] theorem drawPinAndBusy_pinLevel (s : State) :
    (drawPinAndBusy s).pinLevel = Config.drawFaultedLevel s.draws := rfl
@[simp] theorem drawPinAndBusy_busy (s : State) : (drawPinAndBusy s).busy = Config.drawFaultedBusy s.draws := rfl
@[simp] theorem drawPinAndBusy_fault (s : State) : (drawPinAndBusy s).fault = s.fault := rfl
@[simp] theorem drawPinAndBusy_rep (s : State) : (drawPinAndBusy s).rep = s.rep := rfl
@[simp] theorem drawPinAndBusy_seg (s : State) : (drawPinAndBusy s).seg = s.seg := rfl
@[simp] theorem drawPinAndBusy_cnt (s : State) : (drawPinAndBusy s).cnt = s.cnt := rfl
@[simp] theorem drawPinAndBusy_frameL (s : State) : (drawPinAndBusy s).frameL = s.frameL := rfl
@[simp] theorem drawPinAndBusy_cfg (s : State) : (drawPinAndBusy s).cfg = s.cfg := rfl
@[simp] theorem drawPinAndBusy_inputs (s : State) : (drawPinAndBusy s).inputs = s.inputs := rfl
@[simp] theorem drawPinAndBusy_draws (s : State) : (drawPinAndBusy s).draws = s.draws + 1 := rfl

/-! ### setCnt: `CNT <- n` -/

@[simp] theorem setCnt_devid (n : Nat) (s : State) : (setCnt n s).devid = s.devid := rfl
@[simp] theorem setCnt_hum (n : Nat) (s : State) : (setCnt n s).hum = s.hum := rfl
@[simp] theorem setCnt_tempw (n : Nat) (s : State) : (setCnt n s).tempw = s.tempw := rfl
@[simp] theorem setCnt_repeatCount (n : Nat) (s : State) : (setCnt n s).repeatCount = s.repeatCount := rfl
@[simp] theorem setCnt_pin (n : Nat) (s : State) : (setCnt n s).pin = s.pin := rfl
@[simp] theorem setCnt_pinDir (n : Nat) (s : State) : (setCnt n s).pinDir = s.pinDir := rfl
@[simp] theorem setCnt_pinLevel (n : Nat) (s : State) : (setCnt n s).pinLevel = s.pinLevel := rfl
@[simp] theorem setCnt_busy (n : Nat) (s : State) : (setCnt n s).busy = s.busy := rfl
@[simp] theorem setCnt_fault (n : Nat) (s : State) : (setCnt n s).fault = s.fault := rfl
@[simp] theorem setCnt_rep (n : Nat) (s : State) : (setCnt n s).rep = s.rep := rfl
@[simp] theorem setCnt_seg (n : Nat) (s : State) : (setCnt n s).seg = s.seg := rfl
@[simp] theorem setCnt_cnt (n : Nat) (s : State) : (setCnt n s).cnt = n := rfl
@[simp] theorem setCnt_frameL (n : Nat) (s : State) : (setCnt n s).frameL = s.frameL := rfl
@[simp] theorem setCnt_cfg (n : Nat) (s : State) : (setCnt n s).cfg = s.cfg := rfl
@[simp] theorem setCnt_inputs (n : Nat) (s : State) : (setCnt n s).inputs = s.inputs := rfl
@[simp] theorem setCnt_draws (n : Nat) (s : State) : (setCnt n s).draws = s.draws := rfl

/-! ### setPosition: `SEG <- k; REP <- r` -/

@[simp] theorem setPosition_devid (k : Fin 105) (r : Nat) (s : State) : (setPosition k r s).devid = s.devid := rfl
@[simp] theorem setPosition_hum (k : Fin 105) (r : Nat) (s : State) : (setPosition k r s).hum = s.hum := rfl
@[simp] theorem setPosition_tempw (k : Fin 105) (r : Nat) (s : State) : (setPosition k r s).tempw = s.tempw := rfl
@[simp] theorem setPosition_repeatCount (k : Fin 105) (r : Nat) (s : State) :
    (setPosition k r s).repeatCount = s.repeatCount := rfl
@[simp] theorem setPosition_pin (k : Fin 105) (r : Nat) (s : State) : (setPosition k r s).pin = s.pin := rfl
@[simp] theorem setPosition_pinDir (k : Fin 105) (r : Nat) (s : State) : (setPosition k r s).pinDir = s.pinDir := rfl
@[simp] theorem setPosition_pinLevel (k : Fin 105) (r : Nat) (s : State) :
    (setPosition k r s).pinLevel = s.pinLevel := rfl
@[simp] theorem setPosition_busy (k : Fin 105) (r : Nat) (s : State) : (setPosition k r s).busy = s.busy := rfl
@[simp] theorem setPosition_fault (k : Fin 105) (r : Nat) (s : State) : (setPosition k r s).fault = s.fault := rfl
@[simp] theorem setPosition_rep (k : Fin 105) (r : Nat) (s : State) : (setPosition k r s).rep = r := rfl
@[simp] theorem setPosition_seg (k : Fin 105) (r : Nat) (s : State) : (setPosition k r s).seg = k := rfl
@[simp] theorem setPosition_cnt (k : Fin 105) (r : Nat) (s : State) : (setPosition k r s).cnt = s.cnt := rfl
@[simp] theorem setPosition_frameL (k : Fin 105) (r : Nat) (s : State) : (setPosition k r s).frameL = s.frameL := rfl
@[simp] theorem setPosition_cfg (k : Fin 105) (r : Nat) (s : State) : (setPosition k r s).cfg = s.cfg := rfl
@[simp] theorem setPosition_inputs (k : Fin 105) (r : Nat) (s : State) : (setPosition k r s).inputs = s.inputs := rfl
@[simp] theorem setPosition_draws (k : Fin 105) (r : Nat) (s : State) : (setPosition k r s).draws = s.draws := rfl

/-! ### endSend: `BUSY <- 0` -/

@[simp] theorem endSend_devid (s : State) : (endSend s).devid = s.devid := rfl
@[simp] theorem endSend_hum (s : State) : (endSend s).hum = s.hum := rfl
@[simp] theorem endSend_tempw (s : State) : (endSend s).tempw = s.tempw := rfl
@[simp] theorem endSend_repeatCount (s : State) : (endSend s).repeatCount = s.repeatCount := rfl
@[simp] theorem endSend_pin (s : State) : (endSend s).pin = s.pin := rfl
@[simp] theorem endSend_pinDir (s : State) : (endSend s).pinDir = s.pinDir := rfl
@[simp] theorem endSend_pinLevel (s : State) : (endSend s).pinLevel = s.pinLevel := rfl
@[simp] theorem endSend_busy (s : State) : (endSend s).busy = false := rfl
@[simp] theorem endSend_fault (s : State) : (endSend s).fault = s.fault := rfl
@[simp] theorem endSend_rep (s : State) : (endSend s).rep = s.rep := rfl
@[simp] theorem endSend_seg (s : State) : (endSend s).seg = s.seg := rfl
@[simp] theorem endSend_cnt (s : State) : (endSend s).cnt = s.cnt := rfl
@[simp] theorem endSend_frameL (s : State) : (endSend s).frameL = s.frameL := rfl
@[simp] theorem endSend_cfg (s : State) : (endSend s).cfg = s.cfg := rfl
@[simp] theorem endSend_inputs (s : State) : (endSend s).inputs = s.inputs := rfl
@[simp] theorem endSend_draws (s : State) : (endSend s).draws = s.draws := rfl

/-! ### startSegment: the start of a segment -/

@[simp] theorem startSegment_devid (s : State) : (startSegment s).devid = s.devid := rfl
@[simp] theorem startSegment_hum (s : State) : (startSegment s).hum = s.hum := rfl
@[simp] theorem startSegment_tempw (s : State) : (startSegment s).tempw = s.tempw := rfl
@[simp] theorem startSegment_repeatCount (s : State) : (startSegment s).repeatCount = s.repeatCount := rfl
@[simp] theorem startSegment_pin (s : State) : (startSegment s).pin = s.pin := rfl
@[simp] theorem startSegment_pinDir (s : State) : (startSegment s).pinDir = s.pinDir := rfl
@[simp] theorem startSegment_pinLevel (s : State) :
    (startSegment s).pinLevel = (segmentAt s.cfg.pulseLength s.frameL s.seg).level := rfl
@[simp] theorem startSegment_busy (s : State) : (startSegment s).busy = s.busy := rfl
@[simp] theorem startSegment_fault (s : State) : (startSegment s).fault = s.fault := rfl
@[simp] theorem startSegment_rep (s : State) : (startSegment s).rep = s.rep := rfl
@[simp] theorem startSegment_seg (s : State) : (startSegment s).seg = s.seg := rfl
@[simp] theorem startSegment_cnt (s : State) :
    (startSegment s).cnt = (segmentAt s.cfg.pulseLength s.frameL s.seg).dur := rfl
@[simp] theorem startSegment_frameL (s : State) : (startSegment s).frameL = s.frameL := rfl
@[simp] theorem startSegment_cfg (s : State) : (startSegment s).cfg = s.cfg := rfl
@[simp] theorem startSegment_inputs (s : State) : (startSegment s).inputs = s.inputs := rfl
@[simp] theorem startSegment_draws (s : State) : (startSegment s).draws = s.draws := rfl

/-! ### startSend: the start of a SEND -/

@[simp] theorem startSend_devid (s : State) : (startSend s).devid = s.devid := rfl
@[simp] theorem startSend_hum (s : State) : (startSend s).hum = s.hum := rfl
@[simp] theorem startSend_tempw (s : State) : (startSend s).tempw = s.tempw := rfl
@[simp] theorem startSend_repeatCount (s : State) : (startSend s).repeatCount = s.repeatCount := rfl
@[simp] theorem startSend_pin (s : State) : (startSend s).pin = s.pin := rfl
@[simp] theorem startSend_pinDir (s : State) : (startSend s).pinDir = s.pinDir := rfl
@[simp] theorem startSend_pinLevel (s : State) : (startSend s).pinLevel = .high := rfl
@[simp] theorem startSend_busy (s : State) : (startSend s).busy = true := rfl
@[simp] theorem startSend_fault (s : State) : (startSend s).fault = s.fault := rfl
@[simp] theorem startSend_rep (s : State) : (startSend s).rep = 0 := rfl
@[simp] theorem startSend_seg (s : State) : (startSend s).seg = 0 := rfl
@[simp] theorem startSend_cnt (s : State) :
    (startSend s).cnt = (segmentAt s.cfg.pulseLength (frame s.devid s.tempw s.hum) 0).dur := rfl
@[simp] theorem startSend_frameL (s : State) : (startSend s).frameL = frame s.devid s.tempw s.hum := rfl
@[simp] theorem startSend_cfg (s : State) : (startSend s).cfg = s.cfg := rfl
@[simp] theorem startSend_inputs (s : State) : (startSend s).inputs = s.inputs := rfl
@[simp] theorem startSend_draws (s : State) : (startSend s).draws = s.draws := rfl

/-! ### setInputs: the host's inputs -/

@[simp] theorem setInputs_devid (rest : List HostInput) (s : State) : (setInputs rest s).devid = s.devid := rfl
@[simp] theorem setInputs_hum (rest : List HostInput) (s : State) : (setInputs rest s).hum = s.hum := rfl
@[simp] theorem setInputs_tempw (rest : List HostInput) (s : State) : (setInputs rest s).tempw = s.tempw := rfl
@[simp] theorem setInputs_repeatCount (rest : List HostInput) (s : State) :
    (setInputs rest s).repeatCount = s.repeatCount := rfl
@[simp] theorem setInputs_pin (rest : List HostInput) (s : State) : (setInputs rest s).pin = s.pin := rfl
@[simp] theorem setInputs_pinDir (rest : List HostInput) (s : State) : (setInputs rest s).pinDir = s.pinDir := rfl
@[simp] theorem setInputs_pinLevel (rest : List HostInput) (s : State) :
    (setInputs rest s).pinLevel = s.pinLevel := rfl
@[simp] theorem setInputs_busy (rest : List HostInput) (s : State) : (setInputs rest s).busy = s.busy := rfl
@[simp] theorem setInputs_fault (rest : List HostInput) (s : State) : (setInputs rest s).fault = s.fault := rfl
@[simp] theorem setInputs_rep (rest : List HostInput) (s : State) : (setInputs rest s).rep = s.rep := rfl
@[simp] theorem setInputs_seg (rest : List HostInput) (s : State) : (setInputs rest s).seg = s.seg := rfl
@[simp] theorem setInputs_cnt (rest : List HostInput) (s : State) : (setInputs rest s).cnt = s.cnt := rfl
@[simp] theorem setInputs_frameL (rest : List HostInput) (s : State) : (setInputs rest s).frameL = s.frameL := rfl
@[simp] theorem setInputs_cfg (rest : List HostInput) (s : State) : (setInputs rest s).cfg = s.cfg := rfl
@[simp] theorem setInputs_inputs (rest : List HostInput) (s : State) : (setInputs rest s).inputs = rest := rfl
@[simp] theorem setInputs_draws (rest : List HostInput) (s : State) : (setInputs rest s).draws = s.draws := rfl

/-! ### constructed: reset -/

@[simp] theorem constructed_devid (c : Construct) (s : State) : (constructed c s).devid = c.id0 := rfl
@[simp] theorem constructed_hum (c : Construct) (s : State) : (constructed c s).hum = 0 := rfl
@[simp] theorem constructed_tempw (c : Construct) (s : State) : (constructed c s).tempw = 0 := rfl
@[simp] theorem constructed_repeatCount (c : Construct) (s : State) : (constructed c s).repeatCount = c.n.toNat := rfl
@[simp] theorem constructed_pin (c : Construct) (s : State) : (constructed c s).pin = c.pin := rfl
@[simp] theorem constructed_pinDir (c : Construct) (s : State) : (constructed c s).pinDir = .output := rfl
@[simp] theorem constructed_pinLevel (c : Construct) (s : State) :
    (constructed c s).pinLevel = Config.drawInitLevel s.draws := rfl
@[simp] theorem constructed_busy (c : Construct) (s : State) : (constructed c s).busy = false := rfl
@[simp] theorem constructed_fault (c : Construct) (s : State) : (constructed c s).fault = none := rfl
@[simp] theorem constructed_rep (c : Construct) (s : State) : (constructed c s).rep = 0 := rfl
@[simp] theorem constructed_seg (c : Construct) (s : State) : (constructed c s).seg = 0 := rfl
@[simp] theorem constructed_cnt (c : Construct) (s : State) : (constructed c s).cnt = 0 := rfl
@[simp] theorem constructed_frameL (c : Construct) (s : State) : (constructed c s).frameL = 0 := rfl
@[simp] theorem constructed_cfg (c : Construct) (s : State) : (constructed c s).cfg = s.cfg := rfl
@[simp] theorem constructed_inputs (c : Construct) (s : State) : (constructed c s).inputs = s.inputs := rfl
@[simp] theorem constructed_draws (c : Construct) (s : State) : (constructed c s).draws = s.draws + 1 := rfl

/-! ### raiseFault: fault entry -/

@[simp] theorem raiseFault_devid (r : FaultReason) (cw : CmdWord) (s : State) : (raiseFault r cw s).devid = s.devid := by
  unfold raiseFault; split <;> rfl
@[simp] theorem raiseFault_hum (r : FaultReason) (cw : CmdWord) (s : State) : (raiseFault r cw s).hum = s.hum := by
  unfold raiseFault; split <;> rfl
@[simp] theorem raiseFault_tempw (r : FaultReason) (cw : CmdWord) (s : State) : (raiseFault r cw s).tempw = s.tempw := by
  unfold raiseFault; split <;> rfl
@[simp] theorem raiseFault_repeatCount (r : FaultReason) (cw : CmdWord) (s : State) : (raiseFault r cw s).repeatCount = s.repeatCount := by
  unfold raiseFault; split <;> rfl
@[simp] theorem raiseFault_pin (r : FaultReason) (cw : CmdWord) (s : State) : (raiseFault r cw s).pin = s.pin := by
  unfold raiseFault; split <;> rfl
@[simp] theorem raiseFault_pinDir (r : FaultReason) (cw : CmdWord) (s : State) : (raiseFault r cw s).pinDir = s.pinDir := by
  unfold raiseFault; split <;> rfl
@[simp] theorem raiseFault_fault (r : FaultReason) (cw : CmdWord) (s : State) : (raiseFault r cw s).fault = some { reason := r, cw := cw } := by
  unfold raiseFault; split <;> rfl
@[simp] theorem raiseFault_rep (r : FaultReason) (cw : CmdWord) (s : State) : (raiseFault r cw s).rep = s.rep := by
  unfold raiseFault; split <;> rfl
@[simp] theorem raiseFault_seg (r : FaultReason) (cw : CmdWord) (s : State) : (raiseFault r cw s).seg = s.seg := by
  unfold raiseFault; split <;> rfl
@[simp] theorem raiseFault_cnt (r : FaultReason) (cw : CmdWord) (s : State) : (raiseFault r cw s).cnt = s.cnt := by
  unfold raiseFault; split <;> rfl
@[simp] theorem raiseFault_frameL (r : FaultReason) (cw : CmdWord) (s : State) : (raiseFault r cw s).frameL = s.frameL := by
  unfold raiseFault; split <;> rfl
@[simp] theorem raiseFault_cfg (r : FaultReason) (cw : CmdWord) (s : State) : (raiseFault r cw s).cfg = s.cfg := by
  unfold raiseFault; split <;> rfl
@[simp] theorem raiseFault_inputs (r : FaultReason) (cw : CmdWord) (s : State) : (raiseFault r cw s).inputs = s.inputs := by
  unfold raiseFault; split <;> rfl

/-! ### writeTemperature: SETTEMP's write -/

@[simp] theorem writeTemperature_devid (t : Operand) (s : State) : (writeTemperature t s).devid = s.devid := by
  unfold writeTemperature; split <;> rfl
@[simp] theorem writeTemperature_hum (t : Operand) (s : State) : (writeTemperature t s).hum = s.hum := by
  unfold writeTemperature; split <;> rfl
@[simp] theorem writeTemperature_repeatCount (t : Operand) (s : State) : (writeTemperature t s).repeatCount = s.repeatCount := by
  unfold writeTemperature; split <;> rfl
@[simp] theorem writeTemperature_pin (t : Operand) (s : State) : (writeTemperature t s).pin = s.pin := by
  unfold writeTemperature; split <;> rfl
@[simp] theorem writeTemperature_pinDir (t : Operand) (s : State) : (writeTemperature t s).pinDir = s.pinDir := by
  unfold writeTemperature; split <;> rfl
@[simp] theorem writeTemperature_pinLevel (t : Operand) (s : State) : (writeTemperature t s).pinLevel = s.pinLevel := by
  unfold writeTemperature; split <;> rfl
@[simp] theorem writeTemperature_busy (t : Operand) (s : State) : (writeTemperature t s).busy = s.busy := by
  unfold writeTemperature; split <;> rfl
@[simp] theorem writeTemperature_fault (t : Operand) (s : State) : (writeTemperature t s).fault = s.fault := by
  unfold writeTemperature; split <;> rfl
@[simp] theorem writeTemperature_rep (t : Operand) (s : State) : (writeTemperature t s).rep = s.rep := by
  unfold writeTemperature; split <;> rfl
@[simp] theorem writeTemperature_seg (t : Operand) (s : State) : (writeTemperature t s).seg = s.seg := by
  unfold writeTemperature; split <;> rfl
@[simp] theorem writeTemperature_cnt (t : Operand) (s : State) : (writeTemperature t s).cnt = s.cnt := by
  unfold writeTemperature; split <;> rfl
@[simp] theorem writeTemperature_frameL (t : Operand) (s : State) : (writeTemperature t s).frameL = s.frameL := by
  unfold writeTemperature; split <;> rfl
@[simp] theorem writeTemperature_cfg (t : Operand) (s : State) : (writeTemperature t s).cfg = s.cfg := by
  unfold writeTemperature; split <;> rfl
@[simp] theorem writeTemperature_inputs (t : Operand) (s : State) : (writeTemperature t s).inputs = s.inputs := by
  unfold writeTemperature; split <;> rfl

/-! ### endSegment: the end of a segment -/

@[simp] theorem endSegment_devid (s : State) : (endSegment s).devid = s.devid := by
  unfold endSegment; dsimp only; split <;> split <;> rfl
@[simp] theorem endSegment_hum (s : State) : (endSegment s).hum = s.hum := by
  unfold endSegment; dsimp only; split <;> split <;> rfl
@[simp] theorem endSegment_tempw (s : State) : (endSegment s).tempw = s.tempw := by
  unfold endSegment; dsimp only; split <;> split <;> rfl
@[simp] theorem endSegment_repeatCount (s : State) : (endSegment s).repeatCount = s.repeatCount := by
  unfold endSegment; dsimp only; split <;> split <;> rfl
@[simp] theorem endSegment_pin (s : State) : (endSegment s).pin = s.pin := by
  unfold endSegment; dsimp only; split <;> split <;> rfl
@[simp] theorem endSegment_pinDir (s : State) : (endSegment s).pinDir = s.pinDir := by
  unfold endSegment; dsimp only; split <;> split <;> rfl
@[simp] theorem endSegment_fault (s : State) : (endSegment s).fault = s.fault := by
  unfold endSegment; dsimp only; split <;> split <;> rfl
@[simp] theorem endSegment_frameL (s : State) : (endSegment s).frameL = s.frameL := by
  unfold endSegment; dsimp only; split <;> split <;> rfl
@[simp] theorem endSegment_cfg (s : State) : (endSegment s).cfg = s.cfg := by
  unfold endSegment; dsimp only; split <;> split <;> rfl
@[simp] theorem endSegment_inputs (s : State) : (endSegment s).inputs = s.inputs := by
  unfold endSegment; dsimp only; split <;> split <;> rfl
@[simp] theorem endSegment_draws (s : State) : (endSegment s).draws = s.draws := by
  unfold endSegment; dsimp only; split <;> split <;> rfl

end Sys2Proof.Machine
end

