-- ==== Sys2Proof/Laws/Ops.lean ====
section
/-! SUPPORT. What each shared operation does, said once: fault entry, the acceptance checks, the timing controller, and
one step. -/

namespace Sys2Proof.Machine

/-! ### Fault entry (spec/60_exceptions.md R72) -/

theorem raiseFault_idle (r : FaultReason) (cw : CmdWord) (s : State) (h : s.busy = false) :
    raiseFault r cw s = setFault { reason := r, cw := cw } s := by
  simp [raiseFault, h]

theorem raiseFault_busy (r : FaultReason) (cw : CmdWord) (s : State) (h : s.busy = true) :
    raiseFault r cw s = drawPinAndBusy (setFault { reason := r, cw := cw } s) := by
  simp [raiseFault, h]

/-! ### The acceptance checks (spec/60_exceptions.md R71) -/

theorem accept_faulted (cw : CmdWord) (effect : State → State) (s : State) (r : FaultRecord)
    (h : s.fault = some r) : accept cw effect s = s := by
  simp [accept, h]

theorem accept_busy (cw : CmdWord) (effect : State → State) (s : State) (hf : s.fault = none) (hb : s.busy = true) :
    accept cw effect s = raiseFault .commandWhileBusy cw s := by
  simp [accept, hf, hb]

theorem accept_ready (cw : CmdWord) (effect : State → State) (s : State) (hf : s.fault = none) (hb : s.busy = false) :
    accept cw effect s = effect s := by
  simp [accept, hf, hb]

/-- The three outcomes of the acceptance checks. -/
theorem accept_cases (cw : CmdWord) (effect : State → State) (s : State) :
    (∃ r, s.fault = some r ∧ accept cw effect s = s) ∨
    (s.fault = none ∧ s.busy = true ∧ accept cw effect s = raiseFault .commandWhileBusy cw s) ∨
    (s.fault = none ∧ s.busy = false ∧ accept cw effect s = effect s) := by
  cases hf : s.fault with
  | some r => exact .inl ⟨r, rfl, accept_faulted cw effect s r hf⟩
  | none =>
    cases hb : s.busy with
    | true  => exact .inr (.inl ⟨rfl, rfl, accept_busy cw effect s hf hb⟩)
    | false => exact .inr (.inr ⟨rfl, rfl, accept_ready cw effect s hf hb⟩)

/-! ### What a command does, under the acceptance checks -/

/-- The effect of a command on a ready core. -/
def effectOf : Instr → State → State
  | .setid id  => setDevid id
  | .sethum h  => setHum (clampHumidity h)
  | .settemp t => writeTemperature t
  | .send      => startSend

theorem exec_eq (i : Instr) (s : State) : exec i s = .next (accept (encode i) (effectOf i) s) := by
  cases i <;> rfl

/-- SETTEMP writes `TEMPW` from a sign and a magnitude; it counts a draw when both are draws. -/
theorem writeTemperature_cases (t : Operand) (s : State) :
    (∃ p, encodeTemperature s.cfg.tempProduct t = some p ∧ writeTemperature t s = setTempw (packTemp p.1 p.2) s) ∨
    (encodeTemperature s.cfg.tempProduct t = none ∧ writeTemperature t s = drawTempw s) := by
  unfold writeTemperature
  cases h : encodeTemperature s.cfg.tempProduct t with
  | none   => exact .inr ⟨rfl, rfl⟩
  | some p => exact .inl ⟨p, rfl, rfl⟩

/-! ### What a command's effect leaves -/

@[simp] theorem effectOf_repeatCount (i : Instr) (s : State) : (effectOf i s).repeatCount = s.repeatCount := by
  cases i <;> simp [effectOf]

@[simp] theorem effectOf_pin (i : Instr) (s : State) : (effectOf i s).pin = s.pin := by
  cases i <;> simp [effectOf]

@[simp] theorem effectOf_pinDir (i : Instr) (s : State) : (effectOf i s).pinDir = s.pinDir := by
  cases i <;> simp [effectOf]

@[simp] theorem effectOf_fault (i : Instr) (s : State) : (effectOf i s).fault = s.fault := by
  cases i <;> simp [effectOf]

@[simp] theorem effectOf_cfg (i : Instr) (s : State) : (effectOf i s).cfg = s.cfg := by
  cases i <;> simp [effectOf]

@[simp] theorem effectOf_inputs (i : Instr) (s : State) : (effectOf i s).inputs = s.inputs := by
  cases i <;> simp [effectOf]

/-- Every temperature word that is packed has its low bits zero (spec/10_state.md R17). -/
@[simp] theorem tempLow_packTemp (sign : BitVec 1) (mag : BitVec 11) : tempLow (packTemp sign mag) = 0 := by
  apply BitVec.eq_of_toNat_eq
  simp only [tempLow, packTemp, toNat_slice, toNat_concat]
  simp

/-- The clamp's bound (spec/40_encoder.md R54). -/
theorem clampHumidity_le (h : Byte) : (clampHumidity h).toNat ≤ 100 := by
  unfold clampHumidity
  split
  · decide
  · omega

/-! ### The timing controller (spec/41_transmitter.md R64) -/

/-- The position after the end of a segment. -/
theorem endSegment_cases (s : State) :
    ∃ (k : Fin 105) (r : Nat),
      ((∃ h : s.seg.val < 104, k = ⟨s.seg.val + 1, by omega⟩) ∧ r = s.rep ∨ s.seg.val = 104 ∧ k = 0 ∧ r = s.rep + 1) ∧
      (r = s.repeatCount ∧ endSegment s = endSend (setPosition k r s) ∨
       r ≠ s.repeatCount ∧ endSegment s = startSegment (setPosition k r s)) := by
  by_cases h : s.seg.val < 104
  · refine ⟨⟨s.seg.val + 1, by omega⟩, s.rep, .inl ⟨⟨h, rfl⟩, rfl⟩, ?_⟩
    by_cases hr : s.rep = s.repeatCount
    · exact .inl ⟨hr, by simp [endSegment, h, hr]⟩
    · exact .inr ⟨hr, by simp [endSegment, h, hr]⟩
  · refine ⟨0, s.rep + 1, .inr ⟨by omega, rfl, rfl⟩, ?_⟩
    by_cases hr : s.rep + 1 = s.repeatCount
    · exact .inl ⟨hr, by simp [endSegment, h, hr]⟩
    · exact .inr ⟨hr, by simp [endSegment, h, hr]⟩

/-- A tick, by the state it finds. -/
theorem tick_cases (s : State) :
    (∃ r, s.fault = some r ∧ r.reason = .commandWhileBusy ∧ tick s = .next (drawPinAndBusy s)) ∨
    (∃ r, s.fault = some r ∧ r.reason = .illegalCommand ∧ tick s = .next s) ∨
    (s.fault = none ∧ s.busy = false ∧ tick s = .next s) ∨
    (s.fault = none ∧ s.busy = true ∧ s.cnt = 0 ∧ tick s = .fault .sequencerOutOfRange) ∨
    (s.fault = none ∧ s.busy = true ∧ s.cnt = 1 ∧ tick s = .next (endSegment (setCnt 0 s))) ∨
    (s.fault = none ∧ s.busy = true ∧ 2 ≤ s.cnt ∧ tick s = .next (setCnt (s.cnt - 1) s)) := by
  rcases hf : s.fault with _ | r
  · cases hb : s.busy
    · exact .inr (.inr (.inl ⟨rfl, rfl, by simp [tick, hf, hb]⟩))
    · rcases Nat.lt_trichotomy s.cnt 1 with hc | hc | hc
      · have h0 : s.cnt = 0 := by omega
        exact .inr (.inr (.inr (.inl ⟨rfl, rfl, h0, by simp [tick, hf, hb, sequencerTick, h0]⟩)))
      · exact .inr (.inr (.inr (.inr (.inl ⟨rfl, rfl, hc, by simp [tick, hf, hb, sequencerTick, hc]⟩))))
      · refine .inr (.inr (.inr (.inr (.inr ⟨rfl, rfl, hc, ?_⟩))))
        have h0 : s.cnt ≠ 0 := by omega
        have h1 : s.cnt - 1 ≠ 0 := by omega
        simp [tick, hf, hb, sequencerTick, h0, h1]
  · cases hr : r.reason
    · exact .inr (.inl ⟨r, rfl, hr, by simp [tick, hf, hr]⟩)
    · exact .inl ⟨r, rfl, hr, by simp [tick, hf, hr]⟩

/-! ### One step -/

/-- A step, by what the host presents. -/
theorem step_cases (s : State) :
    (s.inputs = [] ∧ step s = tick s) ∨
    ∃ x rest, s.inputs = x :: rest ∧
      ((∃ c, x.rst = some c ∧ step s = resetWith c (setInputs rest s)) ∨
       (x.rst = none ∧ ∃ cw, x.cmd = some cw ∧ step s = present cw (setInputs rest s)) ∨
       (x.rst = none ∧ x.cmd = none ∧ step s = tick (setInputs rest s))) := by
  cases hi : s.inputs with
  | nil => exact .inl ⟨rfl, by simp [step, takeInput, hi]⟩
  | cons x rest =>
    refine .inr ⟨x, rest, rfl, ?_⟩
    cases hr : x.rst with
    | some c => exact .inl ⟨c, rfl, by simp [step, takeInput, hi, deliver, hr]⟩
    | none =>
      cases hc : x.cmd with
      | some cw => exact .inr (.inl ⟨rfl, cw, rfl, by simp [step, takeInput, hi, deliver, hr, hc]⟩)
      | none    => exact .inr (.inr ⟨rfl, rfl, by simp [step, takeInput, hi, deliver, hr, hc]⟩)

/-- A presented word, by its decoding. -/
theorem present_cases (cw : CmdWord) (s : State) :
    (∃ i, decode cw = .ok i ∧ present cw s = .next (accept (encode i) (effectOf i) s)) ∨
    (∃ e, decode cw = .error e ∧ present cw s = .next (accept cw (raiseFault .illegalCommand cw) s)) := by
  unfold present
  cases hd : decode cw with
  | ok i    => exact .inl ⟨i, rfl, exec_eq i s⟩
  | error e => exact .inr ⟨e, rfl, rfl⟩

/-- A reset, by its count. -/
theorem resetWith_cases (c : Construct) (s : State) :
    (c.wf s.cfg.repeatMax = true ∧ resetWith c s = .next (constructed c s)) ∨
    (c.wf s.cfg.repeatMax = false ∧ resetWith c s = .refused (.illegalRepeatCount c.n)) := by
  unfold resetWith
  cases h : c.wf s.cfg.repeatMax
  · exact .inr ⟨rfl, rfl⟩
  · exact .inl ⟨rfl, rfl⟩

end Sys2Proof.Machine
end

