-- ==== Sys2Proof/Laws/PerInstr.lean ====
section
/-! SUPPORT. Statements made per command: one lemma for each constructor of Instr. -/

namespace Sys2Proof.Laws

/-- The encoded word has the bits that the command's row of the opcode table fixes, the reserved zeros among them
(spec/30_encoding.md R41, R42). -/
def EncodeFitsTable.Statement : Instr → Prop
  | .setid id  => encode (.setid id) &&& 0xFFFFFFFF00#40 = 0x0100000000#40
  | .sethum h  => encode (.sethum h) &&& 0xFFFFFFFF00#40 = 0x0200000000#40
  | .settemp t => encode (.settemp t) &&& 0xFF00000000#40 = 0x0300000000#40
  | .send      => encode .send &&& 0xFFFFFFFFFF#40 = 0x0400000000#40

theorem EncodeFitsTable.setid (id : Byte) : EncodeFitsTable.Statement (.setid id) := by
  revert id; unfold EncodeFitsTable.Statement; decide

theorem EncodeFitsTable.sethum (h : Byte) : EncodeFitsTable.Statement (.sethum h) := by
  revert h; unfold EncodeFitsTable.Statement; decide

theorem EncodeFitsTable.settemp (t : Operand) : EncodeFitsTable.Statement (.settemp t) := by
  unfold EncodeFitsTable.Statement encode
  ext k hk
  simp only [BitVec.getElem_and, BitVec.getElem_append]
  interval_cases k <;> simp

theorem EncodeFitsTable.send : EncodeFitsTable.Statement .send := by
  unfold EncodeFitsTable.Statement; decide

end Sys2Proof.Laws
end

