-- ==== Sys2Proof/Laws/Run.lean ====
section
/-! SUPPORT. What a tick leaves, and the inductions over a step and over a run, said once. -/

namespace Sys2Proof.Machine

/-- A tick writes the pin, the sequencer, `BUSY` and the model's draw counter, and nothing else. -/
theorem tick_keeps (s t : State) (h : tick s = .next t) :
    t.devid = s.devid ∧ t.hum = s.hum ∧ t.tempw = s.tempw ∧ t.repeatCount = s.repeatCount ∧ t.pin = s.pin ∧
    t.pinDir = s.pinDir ∧ t.frameL = s.frameL ∧ t.fault = s.fault ∧ t.cfg = s.cfg ∧ t.inputs = s.inputs := by
  obtain ⟨_, _, _, e⟩ | ⟨_, _, _, e⟩ | ⟨_, _, e⟩ | ⟨_, _, _, e⟩ | ⟨_, _, _, e⟩ | ⟨_, _, _, e⟩ := tick_cases s
  case inr.inr.inr.inr.inl =>
    rw [e] at h
    injection h with h
    subst h
    obtain ⟨_, _, _, ⟨_, e'⟩ | ⟨_, e'⟩⟩ := endSegment_cases (setCnt 0 s) <;> rw [e'] <;> simp
  all_goals
    rw [e] at h
    first
    | (injection h with h; subst h; simp)
    | cases h

/-- What the host will present makes no difference to a tick that goes on, and stays as it is. -/
theorem tick_setInputs (s t : State) (rest : List HostInput) (h : tick s = .next t) :
    tick (setInputs rest s) = .next (setInputs rest t) := by
  obtain ⟨_, hf, hr, e⟩ | ⟨_, hf, hr, e⟩ | ⟨hf, hb, e⟩ | ⟨_, _, _, e⟩ | ⟨hf, hb, hc, e⟩ | ⟨hf, hb, hc, e⟩ :=
    tick_cases s <;> rw [e] at h <;> cases h
  · simp [tick, hf, hr]; rfl
  · simp [tick, hf, hr]
  · simp [tick, hf, hb]
  · by_cases h2 : s.seg.val < 104
    · by_cases hr : s.rep = s.repeatCount <;> simp [tick, sequencerTick, hf, hb, hc, endSegment, h2, hr] <;> rfl
    · by_cases hr : s.rep + 1 = s.repeatCount <;> simp [tick, sequencerTick, hf, hb, hc, endSegment, h2, hr] <;> rfl
  · have h0 : s.cnt ≠ 0 := by omega
    have h1 : s.cnt - 1 ≠ 0 := by omega
    simp [tick, sequencerTick, hf, hb, h0, h1]; rfl

/-- What every operation keeps, every step keeps. -/
theorem step_keeps (P : State → Prop)
    (hInputs : ∀ s r, P s → P (setInputs r s))
    (hTick : ∀ s t, P s → tick s = .next t → P t)
    (hReset : ∀ s c, P (constructed c s))
    (hEffect : ∀ i s, P s → P (effectOf i s))
    (hRaise : ∀ s r cw, P s → P (raiseFault r cw s)) :
    ∀ s t, step s = .next t → P s → P t := by
  intro s t ht h
  obtain ⟨_, e⟩ | ⟨x, rest, _, ⟨c, _, e⟩ | ⟨_, cw, _, e⟩ | ⟨_, _, e⟩⟩ := step_cases s <;> rw [e] at ht
  · exact hTick s t h ht
  · obtain ⟨_, e⟩ | ⟨_, e⟩ := resetWith_cases c (setInputs rest s) <;> rw [e] at ht
    · injection ht with ht; subst ht; exact hReset _ _
    · cases ht
  · have h := hInputs s rest h
    obtain ⟨i, _, e⟩ | ⟨_, _, e⟩ := present_cases cw (setInputs rest s) <;> rw [e] at ht <;>
      injection ht with ht <;> subst ht
    · obtain ⟨_, _, e⟩ | ⟨_, _, e⟩ | ⟨_, _, e⟩ := accept_cases (encode i) (effectOf i) (setInputs rest s) <;> rw [e]
      · exact h
      · exact hRaise _ _ _ h
      · exact hEffect _ _ h
    · obtain ⟨_, _, e⟩ | ⟨_, _, e⟩ | ⟨_, _, e⟩ :=
        accept_cases cw (raiseFault .illegalCommand cw) (setInputs rest s) <;> rw [e]
      · exact h
      · exact hRaise _ _ _ h
      · exact hRaise _ _ _ h
  · exact hTick _ t (hInputs s rest h) ht

/-- What every step keeps, every run keeps. -/
theorem runSteps_keeps (P : State → Prop) (hStep : ∀ s t, step s = .next t → P s → P t) (k : Nat) :
    ∀ s t, P s → runSteps k s = .next t → P t := by
  induction k with
  | zero =>
    intro s t hp h
    simp only [runSteps] at h
    injection h with h
    subst h
    exact hp
  | succ k ih =>
    intro s t hp h
    simp only [runSteps] at h
    cases hs : step s with
    | next u    => rw [hs] at h; exact ih u t (hStep s u hs hp) h
    | fault f   => rw [hs] at h; cases h
    | refused r => rw [hs] at h; cases h

/-- A run in two parts. -/
theorem runSteps_add (a b : Nat) (s t : State) (h : runSteps a s = .next t) : runSteps (a + b) s = runSteps b t := by
  induction a generalizing s with
  | zero => simp only [runSteps] at h; injection h with h; subst h; rw [Nat.zero_add]
  | succ a ih =>
    simp only [runSteps] at h
    rw [show a + 1 + b = (a + b) + 1 by omega]
    cases hs : step s with
    | next u    => rw [hs] at h; simp only [runSteps, hs]; exact ih u h
    | fault f   => rw [hs] at h; cases h
    | refused r => rw [hs] at h; cases h

/-- The record of a run in two parts. -/
theorem pinSamples_add (a b : Nat) (s t : State) (w : List Segment) (h : runSteps a s = .next t) :
    pinSamples (a + b) s w = pinSamples b t (pinSamples a s w) := by
  induction a generalizing s w with
  | zero => simp only [runSteps] at h; injection h with h; subst h; rw [Nat.zero_add]; rfl
  | succ a ih =>
    simp only [runSteps] at h
    rw [show a + 1 + b = (a + b) + 1 by omega]
    cases hs : step s with
    | next u    => rw [hs] at h; simp only [pinSamples, hs]; exact ih u _ h
    | fault f   => rw [hs] at h; cases h
    | refused r => rw [hs] at h; cases h

end Sys2Proof.Machine
end

