-- ==== Sys2Proof/Laws/Serializer.lean ====
section
/-! SUPPORT. The frame as a number, the segment list and the waveform as lists, and how durations and merging go over
them. -/

namespace Sys2Proof.Machine

/-! ### The frame (spec/30_encoding.md R45) -/

theorem frame_toNat (d : Byte) (w : TempWord) (h : Byte) :
    (frame d w h).toNat = 0xFF * 2 ^ 44 + d.toNat * 2 ^ 32 + w.toNat * 2 ^ 16 + h.toNat * 2 ^ 8 + 0xFF := by
  simp only [frame, toNat_concat, BitVec.toNat_ofNat]
  omega

/-! ### The segment list (spec/30_encoding.md R49) -/

theorem segs_length (pl : Nat) (f : Frame) : (segs pl f).length = 105 := List.length_ofFn

theorem segs_get (pl : Nat) (f : Frame) (k : Nat) (h : k < 105) :
    (segs pl f)[k]? = some (segmentAt pl f ⟨k, h⟩) := by
  rw [segs, List.getElem?_ofFn, dif_pos h]

/-- The segment list by bits: two segments a bit, then the stop. -/
theorem segs_by_bits (pl : Nat) (f : Frame) :
    segs pl f =
      (List.range 52).flatMap (fun i => [highSegment pl (bitSent f i), lowSegment pl]) ++ [stopSegment pl] := by
  rfl

/-- What is left of the segment list at segment `k` begins with segment `k`. -/
theorem segs_drop (pl : Nat) (f : Frame) (k : Nat) (h : k < 105) :
    (segs pl f).drop k = segmentAt pl f ⟨k, h⟩ :: (segs pl f).drop (k + 1) := by
  have hl : k < (segs pl f).length := by rw [segs_length]; exact h
  have hk := segs_get pl f k h
  rw [List.getElem?_eq_getElem hl] at hk
  rw [List.drop_eq_getElem_cons hl, Option.some.inj hk]

/-- Every segment lasts at least a microsecond (spec/00_scope.md R12). -/
theorem segmentAt_dur_pos (pl : Nat) (f : Frame) (k : Fin 105) (h : 0 < pl) : 1 ≤ (segmentAt pl f k).dur := by
  unfold segmentAt stopSegment highSegment lowSegment
  split <;> [skip; split] <;> simp <;> try omega
  split <;> omega

/-! ### The waveform and its duration (spec/41_transmitter.md R62) -/

theorem wave_succ (pl : Nat) (f : Frame) (n : Nat) : wave pl f (n + 1) = segs pl f ++ wave pl f n := by
  simp [wave, List.replicate_succ]

theorem duration_cons (s : Segment) (w : List Segment) : duration (s :: w) = s.dur + duration w := by
  simp [duration]

theorem duration_append (v w : List Segment) : duration (v ++ w) = duration v + duration w := by
  simp [duration]

/-! ### Merging (spec/41_transmitter.md R66) -/

theorem merged_cons (s : Segment) (w : List Segment) : merged (s :: w) = mergeOnto s (merged w) := rfl

/-- A merged waveform starts at the level of its first segment. -/
theorem merged_head (s : Segment) (w : List Segment) :
    ∃ d r, merged (s :: w) = { level := s.level, dur := d } :: r := by
  rw [merged_cons]
  cases merged w with
  | nil => exact ⟨s.dur, [], rfl⟩
  | cons t r =>
    by_cases h : s.level = t.level
    · exact ⟨s.dur + t.dur, r, by simp [mergeOnto, h]⟩
    · exact ⟨s.dur, t :: r, by simp [mergeOnto, h]⟩

theorem mergeOnto_append (s : Segment) (v w : List Segment) (h : v ≠ []) :
    mergeOnto s (v ++ w) = mergeOnto s v ++ w := by
  cases v with
  | nil => exact absurd rfl h
  | cons t r => simp only [List.cons_append, mergeOnto]; split <;> rfl

/-- A waveform that ends LOW does not merge into one that starts HIGH. -/
theorem merged_append (v w : List Segment) (hv : ∀ s ∈ v.getLast?, s.level = .low)
    (hw : ∀ s ∈ w.head?, s.level = .high) : merged (v ++ w) = merged v ++ merged w := by
  induction v with
  | nil => rfl
  | cons s v ih =>
    rw [List.cons_append, merged_cons, merged_cons]
    cases v with
    | nil =>
      have hs : s.level = .low := hv s (by simp)
      cases w with
      | nil => rfl
      | cons t w =>
        have ht := hw t (by simp)
        obtain ⟨d, r, he⟩ := merged_head t w
        rw [List.nil_append, he]
        simp [mergeOnto, hs, ht, merged]
    | cons u v =>
      rw [ih (fun x hx => hv x (by simpa using hx)), mergeOnto_append]
      obtain ⟨d, r, he⟩ := merged_head u v
      simp [he]

end Sys2Proof.Machine
end

