-- ==== Sys2Proof/Tests/Slice0.lean ====
section
/-! SUPPORT. The model's own tests. Every expected value is from spec/95_test_vectors.md or from the encodings of
spec/30_encoding.md, not from the model. The witnesses at the end meet the hypotheses of the statements. -/

namespace Sys2Proof.Tests

open Machine

/-- A field of the next state, if there is one. -/
def got {α : Type} (f : State → α) : Answer → Option α
  | .next t => some (f t)
  | _       => none

/-- An idle core: spec/95_test_vectors.md section 2 takes `PL` = 500. -/
def idle : State :=
  { State.reset with pinLevel := .low, cfg := { pulseLength := 500, repeatMax := 8, tempProduct := .exact } }

/-- The idle core whose product mode is `BINARY32_RNE`. -/
def idleRne : State := { idle with cfg := { idle.cfg with tempProduct := .binary32Rne } }

/-- The core of spec/95_test_vectors.md section 2.4, first row, before its SEND. -/
def loaded : State := { idle with devid := 0x3C, tempw := 0x0D70, hum := 45 }

/-- The same core in segment `k`, with `cnt` microseconds left (spec/95_test_vectors.md section 2.5). -/
def sendingAt (k : Fin 105) (cnt : Nat) (l : Level) : State :=
  { loaded with busy := true, frameL := 0xFF03C0D702DFF, seg := k, cnt := cnt, pinLevel := l }

/-- A core in the fault state, a SEND having been in flight. -/
def faulted : State := { idle with fault := some { reason := .commandWhileBusy, cw := 0x0200000032#40 } }

/-! ### Well-formedness: each check refuses an ill-formed term -/

theorem test_legal_refuses_opcode_0 : CmdWord.legal 0x0000000000#40 = false := by decide
theorem test_legal_refuses_opcode_5 : CmdWord.legal 0x0500000000#40 = false := by decide
theorem test_legal_refuses_reserved_bits :
    CmdWord.legal 0x0100000100#40 = false ∧ CmdWord.legal 0x0280000000#40 = false ∧
    CmdWord.legal 0x0400000001#40 = false := by decide
theorem test_config_refuses_no_pulse_and_no_repeat :
    Config.wf { idle.cfg with pulseLength := 0 } = false ∧ Config.wf { idle.cfg with repeatMax := 0 } = false := by
  decide
-- spec/95_test_vectors.md section 2.7, with `REPEAT_MAX` = 8
theorem test_construct_refuses_counts :
    Construct.wf { pin := { ident := 0 }, id0 := 0, n := 0 } 8 = false ∧
    Construct.wf { pin := { ident := 0 }, id0 := 0, n := -1 } 8 = false ∧
    Construct.wf { pin := { ident := 0 }, id0 := 0, n := 9 } 8 = false ∧
    Construct.wf { pin := { ident := 0 }, id0 := 0, n := 8 } 8 = true := by decide
theorem test_imm8_refuses_256 : imm8 256 = none ∧ imm8 (-1) = none ∧ imm8 255 = some 255#8 := by decide

/-! ### Decoding: words written out from spec/30_encoding.md R41, R42 -/

theorem test_decode_setid :
    (decode 0b0000000100000000000000000000000000111100#40).toOption = some (.setid 0x3C) := by decide
theorem test_decode_sethum :
    (decode 0b0000001000000000000000000000000000101101#40).toOption = some (.sethum 45) := by decide
theorem test_decode_settemp :
    (decode 0b0000001101000001101011000000000000000000#40).toOption = some (.settemp 0x41AC0000) := by decide
theorem test_decode_send :
    (decode 0b0000010000000000000000000000000000000000#40).toOption = some .send := by decide
theorem test_decode_refuses :
    [0x0000000000#40, 0x0500000000#40, 0xFF00000000#40, 0x0100000100#40, 0x0280000000#40, 0x0400000001#40].all
      fun cw => (decode cw).toOption.isNone := by decide
theorem test_table_rows_do_not_overlap :
    opcodeTable.Pairwise fun a b => a.pattern &&& (a.mask &&& b.mask) ≠ b.pattern &&& (a.mask &&& b.mask) := by
  decide
theorem test_table_word_send : decodeTableWord 40 0x0400000000 = some .send := by decide
theorem test_first_step_after_reset :
    got State.devid (step (State.reset.withFetchWord 40 0x010000003C)) = some 0x3C := by decide

/-! ### The setters (spec/95_test_vectors.md sections 2.1 to 2.3) -/

theorem test_setid_stores : got State.devid (exec (.setid 255) loaded) = some 255 := by decide
theorem test_sethum_clamps :
    [(0#8, 0#8), (45, 45), (99, 99), (100, 100), (101, 100), (200, 100), (255, 100)].all
      fun p => got State.hum (exec (.sethum p.1) idle) == some p.2 := by decide
theorem test_sethum_reserved_bit_faults :
    got (fun t => (t.hum, t.fault.map (·.reason.code))) (present 0x0280000000 loaded) = some (45, some 1) := by decide

/-- Operands and words under `EXACT` (spec/95_test_vectors.md section 2.3, columns E). -/
def exactVectors : List (Operand × TempWord) :=
  [(0x00000000, 0x0000), (0x80000000, 0x0000), (0x3D4CCCCD, 0x0000), (0xBD4CCCCD, 0x8000), (0x3DCCCCCD, 0x0010),
   (0x3E99999A, 0x0030), (0x3F333333, 0x0060), (0x40133333, 0x0160), (0x414570A4, 0x07B0), (0xC144CCCD, 0x87B0),
   (0x41AC0000, 0x0D70), (0xC0A9999A, 0x8350), (0xC2200000, 0x9900)] ++
  [(0x434CB333, 0x7FE0), (0xC34CB333, 0xFFE0), (0x434CCCCD, 0x0000), (0xC34CCCCD, 0x8000), (0x43960000, 0x3B80),
   (0x45000000, 0x0000), (0x7149F2CA, 0x0000), (0x7DCCCCCD, 0x0000), (0xFF7FC99E, 0x8000), (0x00000001, 0x0000),
   (0x80000001, 0x8000)]

/-- Operands and words under `BINARY32_RNE` (spec/95_test_vectors.md section 2.3, columns R). -/
def rneVectors : List (Operand × TempWord) :=
  [(0x00000000, 0x0000), (0x80000000, 0x0000), (0xBD4CCCCD, 0x8000), (0x3DCCCCCD, 0x0010), (0x3E99999A, 0x0030),
   (0x3F333333, 0x0070), (0x40133333, 0x0170), (0x414570A4, 0x07B0), (0x41AC0000, 0x0D70), (0xC0A9999A, 0x8350),
   (0x42C7CCCD, 0x3E70)] ++
  [(0x434CB333, 0x7FF0), (0xC34CB333, 0xFFF0), (0x434CCCCD, 0x0000), (0x43960000, 0x3B80), (0x45000000, 0x0000),
   (0x7149F2CA, 0x0000), (0x7DCCCCCC, 0x0000), (0x00000001, 0x0000), (0x80000001, 0x8000)]

theorem test_settemp_exact :
    exactVectors.all fun p => got State.tempw (exec (.settemp p.1) idle) == some p.2 := by decide
theorem test_settemp_rne :
    rneVectors.all fun p => got State.tempw (exec (.settemp p.1) idleRne) == some p.2 := by decide
-- infinities, NaNs and the overflows under R: draws
theorem test_settemp_draws :
    ([0x7F800000#32, 0xFF800000, 0x7FC00000, 0xFFFFFFFF].all fun t => (encodeTemperature .exact t).isNone) ∧
    ([0x7DCCCCCD#32, 0x7F7FC99E, 0xFF7FC99E, 0x7F800000].all fun t => (encodeTemperature .binary32Rne t).isNone) := by
  decide

/-! ### SEND and the timing controller (spec/95_test_vectors.md sections 2.4 and 2.5) -/

theorem test_send_latches :
    got (fun t => (t.frameL, t.busy, t.cnt, t.pinLevel)) (exec .send loaded) =
      some (0xFF03C0D702DFF, true, 500, .high) := by decide
theorem test_send_while_busy_faults :
    got State.fault (exec .send (sendingAt 0 500 .high)) =
      some (some { reason := .commandWhileBusy, cw := 0x0400000000 }) := by decide
theorem test_tick_within_segment :
    got (fun t => (t.seg, t.cnt, t.pinLevel, t.busy)) (step (sendingAt 0 500 .high)) = some (0, 499, .high, true) := by
  decide
theorem test_tick_end_of_segment :
    got (fun t => (t.seg, t.cnt, t.pinLevel, t.busy)) (step (sendingAt 0 1 .high)) = some (1, 1000, .low, true) := by
  decide
theorem test_tick_stop_begins :
    got (fun t => (t.seg, t.cnt, t.pinLevel, t.busy)) (step (sendingAt 103 1 .low)) = some (104, 4500, .low, true) := by
  decide
theorem test_tick_end_of_send :
    got (fun t => (t.seg, t.rep, t.pinLevel, t.busy)) (step (sendingAt 104 1 .low)) = some (0, 1, .low, false) := by
  decide

/-- Rows of spec/95_test_vectors.md section 2.4: fields, frame, `Z`. -/
def frameVectors : List (Byte × TempWord × Byte × Frame × Nat) :=
  [(0x3C, 0x0D70, 45, 0xFF03C0D702DFF, 22), (0x3C, 0x8350, 45, 0xFF03C83502DFF, 23),
   (0xA5, 0x8350, 100, 0xFF0A5835064FF, 24), (0xA5, 0x3B80, 100, 0xFF0A53B8064FF, 23),
   (0x01, 0x0000, 0, 0xFF001000000FF, 35), (0x00, 0x0000, 0, 0xFF000000000FF, 36),
   (0xFF, 0xFFE0, 95, 0xFF0FFFFE05FFF, 11), (0xFF, 0xFFF0, 95, 0xFF0FFFFF05FFF, 10)]

theorem test_frames :
    frameVectors.all fun v => frame v.1 v.2.1 v.2.2.1 == v.2.2.2.1 && zeroBits v.2.2.2.1 == v.2.2.2.2 := by decide
theorem test_segment_view :
    [(0, Level.high, 500), (1, .low, 1000), (2, .high, 500), (15, .low, 1000), (16, .high, 1500),
           (24, .high, 1500), (40, .high, 1500), (102, .high, 500), (103, .low, 1000), (104, .low, 4500)].all
      fun p => segmentAt 500 0xFF03C0D702DFF p.1 == { level := p.2.1, dur := p.2.2 } := by decide
theorem test_frame_time : frameTime 500 0xFF03C0D702DFF = 104500 := by decide
theorem test_merged_frame_ends_with_long_low :
    (merged (segs 500 0xFF03C0D702DFF)).getLast? = some { level := .low, dur := 5500 } := by decide

/-! ### Acceptance, faults, reset (spec/95_test_vectors.md sections 2.6, 2.7 and program P3) -/

theorem test_busy_check_comes_before_legality :
    got State.fault (present 0x0500000000 (sendingAt 0 500 .high)) =
      some (some { reason := .commandWhileBusy, cw := 0x0500000000 }) := by decide
theorem test_faulted_core_absorbs :
    got (fun t => (t.devid, t.fault)) (present 0x0100000002 faulted) =
      some (0x00, some { reason := .commandWhileBusy, cw := 0x0200000032 }) := by decide
theorem test_reset_clears_fault :
    got (fun t => (t.devid, t.repeatCount, t.fault, t.busy))
      (step { faulted with inputs := [HostInput.reset { pin := { ident := 7 }, id0 := 0x3C, n := 3 }] }) =
        some (0x3C, 3, none, false) := by decide
theorem test_reset_refuses_0 :
    got State.devid (step { idle with inputs := [HostInput.reset { pin := { ident := 7 }, id0 := 0x3C, n := 0 }] }) =
      none := by decide

/-! ### The record of a run (spec/70_reset_and_hazards.md R88; log 27) -/

theorem test_reset_starts_the_record_anew :
    pinSamples 1 { sendingAt 0 500 .high with inputs := [HostInput.reset { pin := { ident := 7 }, id0 := 0, n := 1 }] }
      [{ level := .high, dur := 1 }] = [] ∧
    pinSamples 1 (sendingAt 0 500 .high) [{ level := .high, dur := 1 }] =
      [{ level := .high, dur := 1 }, { level := .high, dur := 1 }] := by decide

/-! ### The assembler (spec/30_encoding.md R51, spec/95_test_vectors.md section 3) -/

theorem test_assemble_setid :
    assembleText ['S', 'E', 'T', 'I', 'D', ' ', '0', 'x', '3', 'C'] = some 0x010000003C := by decide
theorem test_assemble_settemp :
    assembleText ['S', 'E', 'T', 'T', 'E', 'M', 'P', ' ', '-', '5', '.', '3'] = some 0x03C0A9999A := by decide
theorem test_bits32 :
    bits32 { neg := false, digits := 7, exp10 := -1 } = some 0x3F333333 ∧
    bits32 { neg := true, digits := 0, exp10 := 0 } = some 0x80000000 ∧
    bits32 { neg := false, digits := 1, exp10 := 30 } = some 0x7149F2CA ∧
    bits32 { neg := false, digits := 14, exp10 := -46 } = some 0x00000001 ∧
    bits32 { neg := false, digits := 1, exp10 := 39 } = none := by decide

/-! ### Witnesses: states and operands that meet the hypotheses of the statements, at the ends of their clauses -/

/-- The value of a finite pattern from its three parts. -/
theorem floatValue_of_parts (t : Operand) (s n : Nat) (e : Int) (hf : floatFinite t = true)
    (hs : (floatSign t).toNat = s) (hn : floatSig t = n) (he : floatE2 t = e) :
    floatValue t = .finite ((-1) ^ s * (n : ℚ) * 2 ^ e) := by
  rw [floatValue, if_pos hf, hs, hn, he]

theorem value_of_21_5 : floatValue 0x41AC0000 = .finite (43 / 2) := by
  rw [floatValue_of_parts _ 0 11272192 (-19) (by decide) (by decide) (by decide) (by decide)]; norm_num
theorem value_of_minus_0_05 : floatValue 0xBD4CCCCD = .finite (-(13421773 / 2 ^ 28)) := by
  rw [floatValue_of_parts _ 1 13421773 (-28) (by decide) (by decide) (by decide) (by decide)]; norm_num
theorem value_of_204_7 : floatValue 0x434CB333 = .finite (13415219 / 2 ^ 16) := by
  rw [floatValue_of_parts _ 0 13415219 (-16) (by decide) (by decide) (by decide) (by decide)]; norm_num
theorem value_of_2048 : floatValue 0x45000000 = .finite (2 ^ 11) := by
  rw [floatValue_of_parts _ 0 8388608 (-12) (by decide) (by decide) (by decide) (by decide)]; norm_num
theorem value_of_2049 : floatValue 0x45001000 = .finite 2049 := by
  rw [floatValue_of_parts _ 0 8392704 (-12) (by decide) (by decide) (by decide) (by decide)]; norm_num
theorem value_of_two_pow_33 : floatValue 0x50000000 = .finite (2 ^ 33) := by
  rw [floatValue_of_parts _ 0 8388608 10 (by decide) (by decide) (by decide) (by decide)]; norm_num
theorem value_of_zero : floatValue 0x80000000 = .finite 0 := by
  rw [floatValue_of_parts _ 1 0 (-149) (by decide) (by decide) (by decide) (by decide)]; norm_num
theorem value_of_largest : floatValue 0x7F7FFFFF = .finite ((2 ^ 24 - 1) * 2 ^ 104) := by
  rw [floatValue_of_parts _ 0 16777215 104 (by decide) (by decide) (by decide) (by decide)]; norm_num

theorem inv_idle : CoreInv idle where
  cfgLegal := by decide
  humMax := by decide
  tempwLow := by decide
  repeatRange := by decide
  pinOutput := rfl
  illegalFault := by intro r h; cases h
  sending := by intro _ h; cases h

theorem inv_sending : CoreInv (sendingAt 0 500 .high) where
  cfgLegal := by decide
  humMax := by decide
  tempwLow := by decide
  repeatRange := by decide
  pinOutput := rfl
  illegalFault := by intro r h; cases h
  sending := fun _ _ => ⟨by decide, by decide, by decide, by decide, by decide⟩

theorem witness_IllegalWordsExactly :
    ([0x0000000000, 0x00FFFFFFFF, 0x0500000000, 0xFFFFFFFFFF, 0x0100000100, 0x01FFFFFFFF, 0x0200000100, 0x0400000001,
      0x04FFFFFFFF].all fun w =>
        decide (w / 2 ^ 32 = 0 ∨ 5 ≤ w / 2 ^ 32 ∨ ((w / 2 ^ 32 = 1 ∨ w / 2 ^ 32 = 2) ∧ 2 ^ 8 ≤ w % 2 ^ 32) ∨
          (w / 2 ^ 32 = 4 ∧ 1 ≤ w % 2 ^ 32)) && !(CmdWord.legal (BitVec.ofNat 40 w))) ∧
    ([0x0100000000, 0x01000000FF, 0x02000000FF, 0x0300000000, 0x03FFFFFFFF, 0x0400000000].all fun w =>
        decide (¬ (w / 2 ^ 32 = 0 ∨ 5 ≤ w / 2 ^ 32 ∨ ((w / 2 ^ 32 = 1 ∨ w / 2 ^ 32 = 2) ∧ 2 ^ 8 ≤ w % 2 ^ 32) ∨
          (w / 2 ^ 32 = 4 ∧ 1 ≤ w % 2 ^ 32))) && CmdWord.legal (BitVec.ofNat 40 w)) := by decide

/-- The hypotheses of StepRunsDecodedCommand. -/
theorem witness_StepRunsDecodedCommand :
    let s := { idle with inputs := [HostInput.present 0x010000003C#40, HostInput.wait] }
    s.inputs = HostInput.present 0x010000003C#40 :: [HostInput.wait] ∧
    (HostInput.present 0x010000003C#40).rst = none ∧
    (HostInput.present 0x010000003C#40).cmd = some 0x010000003C#40 ∧
    (decode 0x010000003C#40).toOption = some (.setid 0x3C) := by decide

/-- No command has the word 0x0500000000: the third clause of AcceptanceChecksInOrder is met. The states that meet the
four clauses are `faulted`, `sendingAt 0 500 .high` and (twice) `idle`; the setters' and SEND's clauses (`RunsAs`) are
met by the same three. -/
theorem witness_AcceptanceChecksInOrder :
    faulted.fault = some { reason := .commandWhileBusy, cw := 0x0200000032#40 } ∧
    ((sendingAt 0 500 .high).fault = none ∧ (sendingAt 0 500 .high).busy = true) ∧
    (idle.fault = none ∧ idle.busy = false) ∧
    (∀ i, encode i ≠ 0x0500000000#40) ∧ encode (.setid 0x3C) = 0x010000003C#40 := by
  refine ⟨rfl, ⟨rfl, rfl⟩, ⟨rfl, rfl⟩, fun i h => ?_, by decide⟩
  have h := congrArg BitVec.toNat h
  cases i with
  | setid id  => rw [encode_setid_toNat] at h; have := id.isLt; simp at h; omega
  | sethum n  => rw [encode_sethum_toNat] at h; have := n.isLt; simp at h; omega
  | settemp t => rw [encode_settemp_toNat] at h; have := t.isLt; simp at h; omega
  | send      => rw [encode_send_toNat] at h; simp at h

/-- The least and the greatest operand of the illegal clauses of SetidStoresId, SethumClampsTo100 and
SendLatchesFrameAndStarts, on a ready core. -/
theorem witness_FaultsAsIllegal :
    [wordOf 0x01 (2 ^ 8), wordOf 0x01 (2 ^ 32 - 1), wordOf 0x02 (2 ^ 8), wordOf 0x02 (2 ^ 32 - 1), wordOf 0x04 1,
      wordOf 0x04 (2 ^ 32 - 1)].all fun cw =>
        got State.fault (present cw idle) == some (some { reason := .illegalCommand, cw := cw }) := by decide

/-- Both clauses of SettempEncodesTemperature: an infinity and an overflow, and an ordinary operand. -/
theorem witness_SettempEncodesTemperature :
    (0x7F800000#32).toNat / 2 ^ 23 % 2 ^ 8 = 255 ∧ tenths idleRne.cfg.tempProduct 0x7F7FC99E = none ∧
    (0x41AC0000#32).toNat / 2 ^ 23 % 2 ^ 8 ≠ 255 ∧ tenths idle.cfg.tempProduct 0x41AC0000 = some 215 := by decide

theorem witness_ExactModeTruncatesMagnitude :
    floatValue 0x45001000 = .finite 2049 ∧ idle.cfg.tempProduct = .exact ∧ idle.fault = none ∧ idle.busy = false :=
  ⟨value_of_2049, rfl, rfl, rfl⟩

/-- The four clauses of FloatValueOfPattern, at the ends of the exponent field. -/
theorem witness_FloatValueOfPattern :
    ((0xFF800000#32).toNat / 2 ^ 23 % 2 ^ 8 = 255 ∧ (0xFF800000#32).toNat % 2 ^ 23 = 0) ∧
    ((0x7F800001#32).toNat / 2 ^ 23 % 2 ^ 8 = 255 ∧ (0x7F800001#32).toNat % 2 ^ 23 ≠ 0) ∧
    (0x007FFFFF#32).toNat / 2 ^ 23 % 2 ^ 8 = 0 ∧
    ((0x00800000#32).toNat / 2 ^ 23 % 2 ^ 8 = 1 ∧ (0x7F7FFFFF#32).toNat / 2 ^ 23 % 2 ^ 8 = 254) := by decide

/-- Finite patterns on both sides of zero, and −0.0, for NegFlagMeansBelowZero and ExactTenthsAreFloor. -/
theorem witness_NegFlagMeansBelowZero :
    floatValue 0xBD4CCCCD = .finite (-(13421773 / 2 ^ 28)) ∧ floatValue 0x80000000 = .finite 0 ∧
    floatValue 0x41AC0000 = .finite (43 / 2) := ⟨value_of_minus_0_05, value_of_zero, value_of_21_5⟩

theorem witness_ExactTenthsAreFloor : floatValue 0x434CB333 = .finite (13415219 / 2 ^ 16) := value_of_204_7

theorem witness_RoundTiesToEvenIsNearest :
    0 < 2 ∧ roundTiesToEven 1 2 = 0 ∧ roundTiesToEven 3 2 = 2 ∧ roundTiesToEven 5 2 = 2 := by decide

/-- RneTenthsRoundTheProduct and RneOverflowThreshold: the product 0, an ordinary one, and one that overflows. -/
theorem witness_RneTenthsRoundTheProduct :
    floatValue 0x80000000 = .finite 0 ∧ floatValue 0x434CB333 = .finite (13415219 / 2 ^ 16) ∧
    floatValue 0x7F7FFFFF = .finite ((2 ^ 24 - 1) * 2 ^ 104) ∧ tenthsRne 0x434CB333 = some 2047 ∧
    tenthsRne 0x7F7FFFFF = none := ⟨value_of_zero, value_of_204_7, value_of_largest, by decide, by decide⟩

/-- The hypotheses of ExactMagnitudeZeroFromTwoPow11 at their bound, and an operand (2049.0) that refutes it. -/
theorem witness_ExactMagnitudeZeroFromTwoPow11 :
    (floatValue 0x45000000 = .finite (2 ^ 11) ∧ (2 : ℚ) ^ 11 ≤ |2 ^ 11|) ∧
    (floatValue 0x45001000 = .finite 2049 ∧ (2 : ℚ) ^ 11 ≤ |2049|) ∧
    encodeTemperature .exact 0x45001000 = some (0, 10) :=
  ⟨⟨value_of_2048, by norm_num⟩, ⟨value_of_2049, by norm_num⟩, by decide⟩

theorem witness_ExactMagnitudeZeroFromTwoPow33 :
    floatValue 0x50000000 = .finite (2 ^ 33) ∧ (2 : ℚ) ^ 33 ≤ |2 ^ 33| := ⟨value_of_two_pow_33, by norm_num⟩

theorem witness_DecodedTemperatureWithinTenth :
    floatValue 0x434CB333 = .finite (13415219 / 2 ^ 16) ∧ |(13415219 / 2 ^ 16 : ℚ)| ≤ 2047 / 10 :=
  ⟨value_of_204_7, by rw [abs_of_nonneg] <;> norm_num⟩

/-- SettersFrame: a setter on a ready, a busy and a faulted core. -/
theorem witness_SettersFrame :
    Instr.setid 7 ≠ .send ∧ (∃ t, exec (.setid 7) idle = .next t) ∧ (∃ t, exec (.sethum 7) (sendingAt 0 500 .high) = .next t) ∧
    (∃ t, exec (.settemp 7) faulted = .next t) := by
  exact ⟨by decide, ⟨_, rfl⟩, ⟨_, rfl⟩, ⟨_, rfl⟩⟩

theorem witness_LatestSetterCounts :
    idle.fault = none ∧ idle.busy = false ∧ (∃ t, exec (.setid 7) idle = .next t) ∧
    (∃ t, exec (.sethum 7) idle = .next t) ∧ (∃ t, exec (.settemp 0x7F800000) idle = .next t) :=
  ⟨rfl, rfl, ⟨_, rfl⟩, ⟨_, rfl⟩, ⟨_, rfl⟩⟩

/-- HumidityAtMost100 and TemperatureLowBitsZero: a reset, a step and a run, with a clamped humidity at the bound. -/
theorem witness_HumidityAtMost100 :
    (∃ t, resetWith { pin := { ident := 7 }, id0 := 1, n := 8 } idle = .next t) ∧
    (∃ t, step { idle with inputs := [HostInput.present 0x02000000FF#40] } = .next t ∧ t.hum.toNat = 100) ∧
    (∃ t, runSteps 2 { State.reset with inputs := [HostInput.present 0x02000000FF#40, HostInput.wait] } = .next t) :=
  ⟨⟨_, rfl⟩, ⟨_, rfl, by decide⟩, ⟨_, rfl⟩⟩

theorem witness_TemperatureLowBitsZero :
    (∃ t, step { idle with inputs := [HostInput.present 0x03FFC00000#40] } = .next t) ∧ tempLow idle.tempw = 0 ∧
    (∃ t, runSteps 1 { State.reset with inputs := [HostInput.present 0x0341AC0000#40] } = .next t) :=
  ⟨⟨_, rfl⟩, by decide, ⟨_, rfl⟩⟩

/-- FrameBitsInOrderSent: the first and the last bit of each of its six ranges (`DEVID` = 0x81, `TEMPW` = 0x8001,
`HUM` = 0x81). -/
theorem witness_FrameBitsInOrderSent :
    [(0, true), (7, true), (8, false), (11, false), (12, true), (19, true), (20, true), (35, true), (36, true),
      (43, true), (44, true), (51, true)].all fun p => bitSent (frame 0x81 0x8001 0x81) p.1 == p.2 := by decide

/-- SegmentListOfFrame and MergedWaveform: the first and the last bit. -/
theorem witness_SegmentListOfFrame : 0 < 52 ∧ 51 < 52 ∧ (segs 500 0xFF03C0D702DFF)[103]? = some { level := .low, dur := 1000 } :=
  ⟨by decide, by decide, by decide⟩

theorem witness_FrameZeroBitsRange :
    (95#8).toNat ≤ 100 ∧ (100#8).toNat ≤ 100 ∧ tempLow 0xFFF0#16 = 0 ∧ tempLow 0 = 0 := by decide

/-- WaveIsFramesBackToBack: the last segment of the last of two frames. -/
theorem witness_WaveIsFramesBackToBack : 1 < 2 ∧ (104 : Fin 105).val = 104 := by decide

theorem witness_SendFrameCondition :
    (∃ t, exec .send idle = .next t) ∧ (∃ t, exec .send (sendingAt 0 500 .high) = .next t) ∧
    (∃ t, exec .send faulted = .next t) := ⟨⟨_, rfl⟩, ⟨_, rfl⟩, ⟨_, rfl⟩⟩

/-- The clauses of TimingControllerTick: a busy core with no input and with a wait, then the six of its tick. -/
theorem witness_TimingControllerTick :
    (sendingAt 0 2 .high).inputs = [] ∧
    ({ sendingAt 0 2 .high with inputs := [HostInput.wait] }).inputs = HostInput.wait :: [] ∧
    (let s := sendingAt 0 2 .high; s.fault = none ∧ s.busy = true ∧ 2 ≤ s.cnt) ∧
    (let s := sendingAt 103 1 .low; s.fault = none ∧ s.busy = true ∧ s.cnt = 1 ∧ s.seg.val < 104 ∧ s.rep ≠ s.repeatCount) ∧
    (let s := { sendingAt 104 1 .low with repeatCount := 2 }
     s.fault = none ∧ s.busy = true ∧ s.cnt = 1 ∧ s.seg.val = 104 ∧ s.rep + 1 ≠ s.repeatCount) ∧
    (let s := sendingAt 104 1 .low
     s.fault = none ∧ s.busy = true ∧ s.cnt = 1 ∧ s.seg.val = 104 ∧ s.rep + 1 = s.repeatCount) ∧
    (let s := { sendingAt 103 1 .low with rep := 1 }
     s.fault = none ∧ s.busy = true ∧ s.cnt = 1 ∧ s.seg.val < 104 ∧ s.rep = s.repeatCount) ∧
    (let s := sendingAt 0 0 .high; s.fault = none ∧ s.busy = true ∧ s.cnt = 0) := by decide

/-- PinFollowsWaveform: the core that is about to send, whose host waits for `TT` and then presents SETTEMP 300.0
(spec/95_test_vectors.md, program P2), and the same core whose host presents nothing more. -/
theorem witness_PinFollowsWaveform :
    let tt := sendTime 500 (frame loaded.devid loaded.tempw loaded.hum) 1
    let rest := [HostInput.present 0x0343960000#40]
    let s := { loaded with inputs := List.replicate tt HostInput.wait ++ rest }
    (s.fault = none ∧ s.busy = false ∧ 1 ≤ s.repeatCount ∧ 0 < s.cfg.pulseLength ∧
      s.inputs = List.replicate tt HostInput.wait ++ rest ∧ (tt ≤ tt ∨ rest = [])) ∧
    0 < tt ∧ loaded.inputs = List.replicate 0 HostInput.wait ++ [] :=
  ⟨⟨rfl, rfl, by decide, by decide, rfl, .inl (Nat.le_refl _)⟩, by decide, rfl⟩

/-- BusyWindowOfSend: the command comes at once, and at `TT`. -/
theorem witness_BusyWindowOfSend :
    let tt := sendTime 500 (frame loaded.devid loaded.tempw loaded.hum) 1
    (0 < tt ∧ ({ loaded with inputs := [HostInput.present 0x0343960000#40] }).inputs =
      List.replicate 0 HostInput.wait ++ HostInput.present 0x0343960000#40 :: []) ∧
    ({ loaded with inputs := List.replicate tt HostInput.wait ++ HostInput.present 0x0343960000#40 :: [] }).inputs =
      List.replicate tt HostInput.wait ++ HostInput.present 0x0343960000#40 :: [] ∧
    (decode 0x0343960000#40).toOption = some (.settemp 0x43960000) := ⟨⟨by decide, rfl⟩, rfl, by decide⟩

/-- SendWordShowsMergedWave and SecondSendRepeatsWaveform: the core that is about to send. -/
theorem witness_SendWordShowsMergedWave :
    loaded.fault = none ∧ loaded.busy = false ∧ loaded.inputs = [] ∧ 1 ≤ loaded.repeatCount ∧
    0 < loaded.cfg.pulseLength := by decide

/-- RunFromResetShowsMergedWave: the reset and the commands of spec/95_test_vectors.md, program P1, after a wait of two
microseconds, on a faulted core. -/
theorem witness_RunFromResetShowsMergedWave :
    let c : Construct := { pin := { ident := 7 }, id0 := 0x00, n := 1 }
    let s := { faulted with inputs := HostInput.reset c :: (List.replicate 2 HostInput.wait ++
      [HostInput.present (encode (.setid 0x3C)), HostInput.present (encode (.sethum 45)),
       HostInput.present (encode (.settemp 0x41AC0000)), HostInput.present (encode .send)] ++
      List.replicate 3 HostInput.wait) }
    0 < s.cfg.pulseLength ∧ 1 ≤ c.n ∧ c.n ≤ s.cfg.repeatMax ∧
    encodeTemperature s.cfg.tempProduct 0x41AC0000 = some (0, 0x0D7) ∧ takesReset s = true := by decide

/-- RunEndsAfterLastCommand: only waits are left; a command is left; no reset starts a run; a reset is still pending; its
count is illegal, on either side. -/
theorem witness_RunEndsAfterLastCommand :
    ended { idle with inputs := [HostInput.wait, HostInput.wait] } = true ∧
    ended { idle with inputs := [HostInput.wait, HostInput.present 0x010000003C#40] } = false ∧
    takesReset { idle with inputs := [HostInput.wait] } = false ∧ runResult 1 idle = none ∧
    runResult 0 { idle with inputs := [HostInput.reset { pin := { ident := 7 }, id0 := 0, n := 1 }] } = none ∧
    (runResult 1 { idle with inputs := [HostInput.reset { pin := { ident := 7 }, id0 := 0, n := 1 }] }).isSome = true ∧
    (0 : Int) < 1 ∧ (idle.cfg.repeatMax : Int) < 9 ∧
    runResult 1 { idle with inputs := [HostInput.reset { pin := { ident := 7 }, id0 := 0, n := 9 }] } = none := by
  decide

theorem witness_IdleCoreHolds :
    idle.fault = none ∧ idle.busy = false ∧ idle.inputs = [] ∧
    ({ idle with inputs := [HostInput.wait] }).inputs = HostInput.wait :: [] := by decide

theorem witness_FaultEntryIsPrecise :
    idle.busy = false ∧ (sendingAt 0 500 .high).busy = true ∧
    faulted.fault = some { reason := .commandWhileBusy, cw := 0x0200000032#40 } := by decide

/-- FaultOnlyByMisuse: an illegal word on a ready core, and a legal one on a busy core. -/
theorem witness_FaultOnlyByMisuse :
    (∃ t, step { idle with inputs := [HostInput.present 0x0500000000#40] } = .next t ∧ idle.fault = none ∧
      t.fault = some { reason := .illegalCommand, cw := 0x0500000000#40 }) ∧
    (∃ t, step { sendingAt 0 500 .high with inputs := [HostInput.present 0x010000003C#40] } = .next t ∧
      (sendingAt 0 500 .high).fault = none ∧ t.fault = some { reason := .commandWhileBusy, cw := 0x010000003C#40 }) :=
  ⟨⟨_, rfl, rfl, rfl⟩, ⟨_, rfl, rfl, rfl⟩⟩

/-- FaultStaysUntilReset: a faulted core that waits, and one that is reset. -/
theorem witness_FaultStaysUntilReset :
    faulted.fault = some { reason := .commandWhileBusy, cw := 0x0200000032#40 } ∧
    (∃ t, step { faulted with inputs := [HostInput.present 0x0500000000#40] } = .next t) ∧
    (∃ t, step { faulted with inputs := [HostInput.reset { pin := { ident := 7 }, id0 := 0x3C, n := 3 }] } = .next t) :=
  ⟨rfl, ⟨_, rfl⟩, ⟨_, rfl⟩⟩

/-- ResetSetsEveryField and ResetRefusesIllegalCount: the counts at both ends, with `REPEAT_MAX` = 8, and a command at
the same instant. -/
theorem witness_ResetSetsEveryField :
    (1 : ℤ) ≤ 1 ∧ (8 : ℤ) ≤ idle.cfg.repeatMax ∧ (0 : ℤ) < 1 ∧ (idle.cfg.repeatMax : ℤ) < 9 ∧
    (∃ t, step { sendingAt 0 500 .high with inputs :=
      [{ rst := some { pin := { ident := 7 }, id0 := 0x3C, n := 8 }, cmd := some 0x0500000000#40 }] } = .next t) :=
  ⟨by decide, by decide, by decide, by decide, ⟨_, rfl⟩⟩

/-- NothingSurvivesReset: a faulted core and a sending one, before the same reset. -/
theorem witness_NothingSurvivesReset :
    let x := HostInput.reset { pin := { ident := 7 }, id0 := 0x3C, n := 3 }
    let s := { faulted with inputs := [x] }
    let t := { sendingAt 0 500 .high with inputs := [x] }
    s.cfg = t.cfg ∧ s.draws = t.draws ∧ s.inputs = t.inputs ∧ s.inputs.head? = some x ∧
    x.rst = some { pin := { ident := 7 }, id0 := 0x3C, n := 3 } := by decide

theorem witness_ResetStateValues :
    ({ idle with cfg := Config.default, draws := 0 } : State).cfg = Config.default ∧ idle.inputs = [] := ⟨rfl, rfl⟩

/-- StepKeepsInvariant and StepAlwaysGoesOn: an idle core that is given a SEND, and a core that sends. -/
theorem witness_StepKeepsInvariant :
    CoreInv idle ∧ CoreInv (sendingAt 0 500 .high) ∧ ∃ t, step (sendingAt 0 500 .high) = .next t :=
  ⟨inv_idle, inv_sending, ⟨_, rfl⟩⟩

/-- DutifulHostNeverFaults: a host that presents a SEND to an idle core and then waits. -/
theorem witness_DutifulHostNeverFaults :
    let s := { idle with inputs := [HostInput.present 0x0400000000#40] }
    CoreInv s ∧ s.fault = none ∧ KeepsDutyFor 2 s := by
  refine ⟨⟨by decide, by decide, by decide, by decide, rfl, fun r h => (by cases h), fun _ h => (by cases h)⟩, rfl, ?_, ?_⟩
  · intro x rest h
    injection h with h _
    subst h
    refine ⟨fun c h => (by cases h), fun _ cw h => ?_⟩
    injection h with h
    subst h
    decide
  · intro t h
    injection h with h
    subst h
    exact ⟨fun x rest h => (by cases h), fun _ _ => trivial⟩

/-- ConfigurationOnlyByReset: a step without a reset. -/
theorem witness_ConfigurationOnlyByReset :
    (∃ t, step (loaded.withFetchWord 40 0x0400000000) = .next t) ∧
    ∀ x rest, (loaded.withFetchWord 40 0x0400000000).inputs = x :: rest → x.rst = none := by
  refine ⟨⟨_, rfl⟩, fun x rest h => ?_⟩
  injection h with h _
  subst h
  rfl

/-- PinMovesOnlyBySend and BusyRisesOnlyBySend: an accepted SEND raises the pin and `BUSY`; PinMovesOnlyBySend also at
the tick that ends a segment. -/
theorem witness_PinMovesOnlyBySend :
    (∃ t, step (sendingAt 0 1 .high) = .next t ∧ t.pinLevel ≠ (sendingAt 0 1 .high).pinLevel) ∧
    ∃ t, step (loaded.withFetchWord 40 0x0400000000) = .next t ∧ t.pinLevel ≠ loaded.pinLevel ∧ loaded.fault = none ∧
      loaded.busy = false ∧ t.busy = true := ⟨⟨_, rfl, by decide⟩, _, rfl, by decide, rfl, rfl, rfl⟩

/-- AssemblerWords and LiteralGivesNearestBinary32: the ends of `<imm8>`, and literals that have a binary32. -/
theorem witness_AssemblerWords :
    ((0 : Int) ≤ 0 ∧ (255 : Int) ≤ 255) ∧ ((-1 : Int) < 0 ∧ (255 : Int) < 256) ∧
    bits32 { neg := false, digits := 215, exp10 := -1 } = some 0x41AC0000 ∧
    bits32 { neg := false, digits := 0, exp10 := 0 } = some 0x00000000 := by decide

end Sys2Proof.Tests
end

section
/-! PROOFS. The state of the core (spec/10_state.md): the invariant of the core and what a step can change. -/

namespace Sys2Proof

/-! ### The decoder and the opcode table (spec/30_encoding.md R41, R42, R50) -/

/-- A field that lies under a row's mask has the bits of the row's pattern. -/
theorem extractLsb'_of_masked {cw mask pattern : CmdWord} (lo len : Nat)
    (hm : mask.extractLsb' lo len = BitVec.allOnes len) (h : cw &&& mask = pattern) :
    cw.extractLsb' lo len = pattern.extractLsb' lo len := by
  rw [← h, BitVec.extractLsb'_and, hm, BitVec.and_allOnes]

/-- A word that some row of the opcode table covers decodes to a command. -/
theorem decode_ok_of_legal (cw : CmdWord) (h : cw.legal = true) : ∃ i, decode cw = .ok i := by
  simp only [CmdWord.legal, opcodeTable, List.any_cons, List.any_nil, OpcodeRow.covers, Bool.or_false,
    Bool.or_eq_true, beq_iff_eq] at h
  obtain h | h | h | h := h
  · have hop : opcodeField cw = 0x01#8 := extractLsb'_of_masked 32 8 (by decide) h
    have hres : operandHigh cw = 0#24 := extractLsb'_of_masked 8 24 (by decide) h
    exact ⟨.setid (operandLow cw), by simp [decode, hop, hres]⟩
  · have hop : opcodeField cw = 0x02#8 := extractLsb'_of_masked 32 8 (by decide) h
    have hres : operandHigh cw = 0#24 := extractLsb'_of_masked 8 24 (by decide) h
    exact ⟨.sethum (operandLow cw), by simp [decode, hop, hres]⟩
  · have hop : opcodeField cw = 0x03#8 := extractLsb'_of_masked 32 8 (by decide) h
    exact ⟨.settemp (operandField cw), by simp [decode, hop]⟩
  · have hop : opcodeField cw = 0x04#8 := extractLsb'_of_masked 32 8 (by decide) h
    have hres : operandField cw = 0#32 := extractLsb'_of_masked 0 32 (by decide) h
    exact ⟨.send, by simp [decode, hop, hres]⟩

theorem illegal_of_decode_error (cw : CmdWord) (e : DecodeReject) (h : decode cw = .error e) : cw.legal = false := by
  refine Bool.eq_false_iff.mpr fun hl => ?_
  obtain ⟨i, hi⟩ := decode_ok_of_legal cw hl
  rw [h] at hi
  cases hi

/-- What the decoder reads is the command of that word. -/
theorem encode_of_decode (cw : CmdWord) (i : Instr) (h : decode cw = .ok i) : encode i = cw := by
  have hop := opcodeField_toNat cw
  apply BitVec.eq_of_toNat_eq
  simp only [decode] at h
  split_ifs at h with h1 hres h2 hres h3 h4 hres <;> cases h
  · have hhigh := operandHigh_toNat cw
    rw [h1, BitVec.toNat_ofNat] at hop; rw [hres, BitVec.toNat_ofNat] at hhigh
    rw [encode_setid_toNat, operandLow_toNat]
    omega
  · have hhigh := operandHigh_toNat cw
    rw [h2, BitVec.toNat_ofNat] at hop; rw [hres, BitVec.toNat_ofNat] at hhigh
    rw [encode_sethum_toNat, operandLow_toNat]
    omega
  · rw [h3, BitVec.toNat_ofNat] at hop
    rw [encode_settemp_toNat, operandField_toNat]
    omega
  · have hopd := operandField_toNat cw
    rw [h4, BitVec.toNat_ofNat] at hop; rw [hres, BitVec.toNat_ofNat] at hopd
    rw [encode_send_toNat]
    omega

/-! ### The default parameters (spec/00_scope.md R8) -/

theorem Config.default_repeatMax_pos : 1 ≤ Config.default.repeatMax :=
  Nat.le_add_left 1 Config.repeatMaxLessOne

theorem Config.default_wf : Config.default.wf = true := by
  simp [Config.wf, Config.default_repeatMax_pos, show Config.default.pulseLength = 500 from rfl]

end Sys2Proof

namespace Sys2Proof.Machine

/-! ### What a step can do -/

/-- The host presents the command word `cw`, and no reset with it; `rest` is what it presents after that. -/
def Presents (s : State) (cw : CmdWord) (rest : List HostInput) : Prop :=
  ∃ x, s.inputs = x :: rest ∧ x.rst = none ∧ x.cmd = some cw

/-- All that a step that goes on can do, guards included: a reset, the four outcomes of the acceptance checks on a
presented word (spec/60_exceptions.md R71), or a tick. `step_stepsTo` ties it to `step`. -/
inductive StepsTo (s : State) : State → Prop where
  | reset {x : HostInput} {rest : List HostInput} {c : Construct} (hi : s.inputs = x :: rest) (hr : x.rst = some c)
      (hwf : c.wf s.cfg.repeatMax = true) : StepsTo s (constructed c (setInputs rest s))
  | absorbed {cw : CmdWord} {rest : List HostInput} {r : FaultRecord} (hp : Presents s cw rest)
      (hf : s.fault = some r) : StepsTo s (setInputs rest s)
  | whileBusy {cw : CmdWord} {rest : List HostInput} (hp : Presents s cw rest) (hf : s.fault = none)
      (hb : s.busy = true) : StepsTo s (raiseFault .commandWhileBusy cw (setInputs rest s))
  | illegal {cw : CmdWord} {rest : List HostInput} {e : DecodeReject} (hp : Presents s cw rest) (hf : s.fault = none)
      (hb : s.busy = false) (hd : decode cw = .error e) :
      StepsTo s (setFault { reason := .illegalCommand, cw := cw } (setInputs rest s))
  | accepted {rest : List HostInput} {i : Instr} (hp : Presents s (encode i) rest) (hf : s.fault = none)
      (hb : s.busy = false) : StepsTo s (effectOf i (setInputs rest s))
  | ticks {t : State} (hp : passesMicrosecond s = true) (ht : tick (setInputs s.inputs.tail s) = .next t) :
      StepsTo s t

/-- A presented word that a step takes, by the acceptance checks. -/
theorem present_stepsTo {s t : State} {cw : CmdWord} {rest : List HostInput} (hp : Presents s cw rest)
    (h : present cw (setInputs rest s) = .next t) : StepsTo s t := by
  obtain ⟨i, hd, e⟩ | ⟨_, hd, e⟩ := present_cases cw (setInputs rest s) <;> rw [e] at h <;> cases h
  · have hcw := encode_of_decode cw i hd
    subst hcw
    obtain ⟨_, hf, e⟩ | ⟨hf, hb, e⟩ | ⟨hf, hb, e⟩ := accept_cases (encode i) (effectOf i) (setInputs rest s) <;> rw [e]
    · exact .absorbed hp hf
    · exact .whileBusy hp hf hb
    · exact .accepted hp hf hb
  · obtain ⟨_, hf, e⟩ | ⟨hf, hb, e⟩ | ⟨hf, hb, e⟩ :=
      accept_cases cw (raiseFault .illegalCommand cw) (setInputs rest s) <;> rw [e]
    · exact .absorbed hp hf
    · exact .whileBusy hp hf hb
    · rw [raiseFault_idle _ _ _ hb]
      exact .illegal hp hf hb hd

theorem step_stepsTo {s t : State} (h : step s = .next t) : StepsTo s t := by
  obtain ⟨hi, e⟩ | ⟨x, rest, hi, ⟨c, hr, e⟩ | ⟨hr, cw, hc, e⟩ | ⟨hr, hc, e⟩⟩ := step_cases s <;> rw [e] at h
  · refine .ticks (by simp [passesMicrosecond, hi]) ?_
    have hs : setInputs s.inputs.tail s = s := by rw [hi, List.tail_nil, ← hi]; rfl
    rw [hs, h]
  · obtain ⟨hwf, e⟩ | ⟨_, e⟩ := resetWith_cases c (setInputs rest s) <;> rw [e] at h <;> cases h
    exact .reset hi hr hwf
  · exact present_stepsTo ⟨x, hi, hr, hc⟩ h
  · refine .ticks (by simp [passesMicrosecond, hi, hr, hc]) ?_
    rw [hi, List.tail_cons, h]

/-! ### What a command's effect keeps -/

theorem effectOf_busy_of_ne_send {i : Instr} (s : State) (h : i ≠ .send) : (effectOf i s).busy = s.busy := by
  cases i with
  | send => exact absurd rfl h
  | setid | sethum | settemp => simp [effectOf]

theorem effectOf_pinLevel_of_ne_send {i : Instr} (s : State) (h : i ≠ .send) :
    (effectOf i s).pinLevel = s.pinLevel := by
  cases i with
  | send => exact absurd rfl h
  | setid | sethum | settemp => simp [effectOf]

theorem effectOf_hum_le (i : Instr) (s : State) (h : s.hum.toNat ≤ 100) : (effectOf i s).hum.toNat ≤ 100 := by
  cases i with
  | sethum v => exact clampHumidity_le v
  | setid | settemp | send => simpa [effectOf] using h

theorem effectOf_tempLow (i : Instr) (s : State) (h : tempLow s.tempw = 0) : tempLow (effectOf i s).tempw = 0 := by
  cases i with
  | settemp t => obtain ⟨_, _, e⟩ | ⟨_, e⟩ := writeTemperature_cases t s <;> simp [effectOf, e]
  | setid | sethum | send => simpa [effectOf] using h

/-! ### The data fields: HUM and TEMPW (spec/10_state.md R16, R17) -/

theorem step_keeps_hum_le : ∀ s t, step s = .next t → s.hum.toNat ≤ 100 → t.hum.toNat ≤ 100 := by
  refine step_keeps (fun s => s.hum.toNat ≤ 100) ?inputs ?tick ?reset effectOf_hum_le ?raise
  case inputs => intro s r h; simpa using h
  case tick =>
    intro s t h ht
    obtain ⟨_, hhum, _⟩ := tick_keeps s t ht
    rwa [hhum]
  case reset => intro s c; simp
  case raise => intro s r cw h; simpa using h

theorem step_keeps_tempLow : ∀ s t, step s = .next t → tempLow s.tempw = 0 → tempLow t.tempw = 0 := by
  refine step_keeps (fun s => tempLow s.tempw = 0) ?inputs ?tick ?reset effectOf_tempLow ?raise
  case inputs => intro s r h; simpa using h
  case tick =>
    intro s t h ht
    obtain ⟨_, _, htemp, _⟩ := tick_keeps s t ht
    rwa [htemp]
  case reset => intro s c; simp [tempLow]
  case raise => intro s r cw h; simpa using h

/-- The only state that a reset answers. -/
theorem eq_constructed_of_resetWith {c : Construct} {s t : State} (h : resetWith c s = .next t) :
    t = constructed c s := by
  obtain ⟨_, e⟩ | ⟨_, e⟩ := resetWith_cases c s <;> rw [e] at h <;> cases h
  rfl

/-- Settles O23: the clamp of SETHUM bounds the one write of HUM beside reset's. -/
theorem humidityAtMost100 : Obligations.HumidityAtMost100 := by
  refine ⟨fun c s t h => ?_, step_keeps_hum_le, fun k inputs t h => ?_, fun d w h => ?_⟩
  · rw [eq_constructed_of_resetWith h, constructed_hum]
  · exact runSteps_keeps (fun s => s.hum.toNat ≤ 100) step_keeps_hum_le k _ t (by simp [State.reset]) h
  · have hlt := h.isLt
    rw [frame_toNat]; omega

/-- Settles O24: the packing of SETTEMP leaves the low bits zero, drawn or computed. -/
theorem temperatureLowBitsZero : Obligations.TemperatureLowBitsZero := by
  refine ⟨fun c s t h => ?_, step_keeps_tempLow, fun k inputs t h => ?_, fun d w h => ?_⟩
  · rw [eq_constructed_of_resetWith h, constructed_tempw]
  · exact runSteps_keeps (fun s => tempLow s.tempw = 0) step_keeps_tempLow k _ t (by simp [State.reset, tempLow]) h
  · have hh := h.isLt
    have hw := w.isLt
    rw [frame_toNat]; omega

/-! ### The configuration (spec/10_state.md R18 to R20) -/

theorem StepsTo.cfg_eq {s t : State} (h : StepsTo s t) : t.cfg = s.cfg := by
  cases h with
  | ticks _ ht =>
    obtain ⟨_, _, _, _, _, _, _, _, hcfg, _⟩ := tick_keeps _ t ht
    simpa using hcfg
  | reset | absorbed | whileBusy | illegal | accepted => simp

/-- A step is a reset, which writes the configuration from its parameters, or leaves the configuration as it is. -/
theorem StepsTo.config_cases {s t : State} (h : StepsTo s t) :
    (∃ x rest c, s.inputs = x :: rest ∧ x.rst = some c ∧ c.wf s.cfg.repeatMax = true ∧
      t = constructed c (setInputs rest s)) ∨
    (t.repeatCount = s.repeatCount ∧ t.pin = s.pin ∧ t.pinDir = s.pinDir) := by
  cases h with
  | reset hi hr hwf => exact .inl ⟨_, _, _, hi, hr, hwf, rfl⟩
  | ticks _ ht =>
    obtain ⟨_, _, _, hrep, hpin, hdir, _⟩ := tick_keeps _ t ht
    exact .inr ⟨hrep, hpin, hdir⟩
  | absorbed | whileBusy | illegal | accepted => exact .inr (by simp)

/-- Settles O52: beside a reset, no operation writes the configuration. -/
theorem configurationOnlyByReset : Obligations.ConfigurationOnlyByReset := by
  intro s t h
  have hs := step_stepsTo h
  refine ⟨hs.cfg_eq, fun hnone => ?_⟩
  obtain ⟨x, rest, c, hi, hr, _⟩ | hkept := hs.config_cases
  · rw [hnone x rest hi] at hr
    cases hr
  · exact hkept

/-- A legal count is within `1..REPEAT_MAX` as the number that reset writes (spec/70_reset_and_hazards.md R83). -/
theorem construct_wf_range {c : Construct} {repeatMax : Nat} (h : c.wf repeatMax = true) :
    1 ≤ c.n.toNat ∧ c.n.toNat ≤ repeatMax := by
  simp only [Construct.wf, Bool.and_eq_true, decide_eq_true_eq] at h
  omega

theorem StepsTo.repeatRange {s t : State} (h : StepsTo s t)
    (hs : 1 ≤ s.repeatCount ∧ s.repeatCount ≤ s.cfg.repeatMax) :
    1 ≤ t.repeatCount ∧ t.repeatCount ≤ t.cfg.repeatMax := by
  rw [h.cfg_eq]
  obtain ⟨_, _, c, _, _, hwf, rfl⟩ | ⟨hrep, _, _⟩ := h.config_cases
  · exact construct_wf_range hwf
  · rwa [hrep]

theorem StepsTo.pinOutput {s t : State} (h : StepsTo s t) (hs : s.pinDir = .output) : t.pinDir = .output := by
  obtain ⟨_, _, c, _, _, _, rfl⟩ | ⟨_, _, hdir⟩ := h.config_cases
  · rfl
  · rwa [hdir]

/-! ### A SEND in flight (spec/10_state.md R24, spec/41_transmitter.md R63) -/

theorem config_wf_pulseLength_pos {c : Config} (h : c.wf = true) : 0 < c.pulseLength := by
  simp only [Config.wf, Bool.and_eq_true, decide_eq_true_eq] at h
  exact h.1

/-- The start of a segment puts the core at the beginning of that segment. -/
theorem inFlight_startSegment {s : State} (hcfg : s.cfg.wf = true) (hrep : s.rep < s.repeatCount)
    (hframe : s.frameL = frame s.devid s.tempw s.hum) : InFlight (startSegment s) where
  repRange := by simpa using hrep
  cntPos := by simpa using segmentAt_dur_pos _ s.frameL s.seg (config_wf_pulseLength_pos hcfg)
  cntMax := by simp
  pinFollows := by simp
  frameHeld := by simpa using hframe

theorem inFlight_startSend {s : State} (hcfg : s.cfg.wf = true) (hrep : 1 ≤ s.repeatCount) :
    InFlight (startSend s) :=
  inFlight_startSegment (s := latchFrame s) hcfg hrep rfl

/-- A tick within a segment. -/
theorem inFlight_setCnt {s : State} {n : Nat} (h : InFlight s) (hpos : 1 ≤ n) (hle : n ≤ s.cnt) :
    InFlight (setCnt n s) where
  repRange := h.repRange
  cntPos := hpos
  cntMax := hle.trans h.cntMax
  pinFollows := h.pinFollows
  frameHeld := h.frameHeld

/-- The end of a segment of a SEND in flight: the next segment, unless it was the last. -/
theorem inFlight_endSegment {s : State} (hcfg : s.cfg.wf = true) (h : InFlight s)
    (hb : (endSegment (setCnt 0 s)).busy = true) : InFlight (endSegment (setCnt 0 s)) := by
  obtain ⟨k, r, hpos, ⟨_, e⟩ | ⟨hne, e⟩⟩ := endSegment_cases (setCnt 0 s) <;> rw [e] at hb ⊢
  · simp at hb
  · have hlt := h.repRange
    have hr : r ≤ s.rep + 1 := by
      obtain ⟨_, hr⟩ | ⟨_, _, hr⟩ := hpos <;> simp at hr <;> omega
    rw [setCnt_repeatCount] at hne
    exact inFlight_startSegment hcfg (show r < s.repeatCount by omega) h.frameHeld

theorem inFlight_setInputs {s : State} (rest : List HostInput) (h : InFlight s) : InFlight (setInputs rest s) :=
  ⟨h.repRange, h.cntPos, h.cntMax, h.pinFollows, h.frameHeld⟩

theorem tick_keeps_sending {s t : State} (hcfg : s.cfg.wf = true)
    (h : s.fault = none → s.busy = true → InFlight s) (ht : tick s = .next t) (hf : t.fault = none)
    (hb : t.busy = true) : InFlight t := by
  obtain ⟨_, hs, _, e⟩ | ⟨_, hs, _, e⟩ | ⟨_, hs, e⟩ | ⟨_, _, _, e⟩ | ⟨hsf, hsb, _, e⟩ | ⟨hsf, hsb, hc, e⟩ :=
    tick_cases s <;> rw [e] at ht <;> cases ht
  · rw [drawPinAndBusy_fault, hs] at hf; cases hf
  · rw [hs] at hf; cases hf
  · rw [hs] at hb; cases hb
  · exact inFlight_endSegment hcfg (h hsf hsb) hb
  · exact inFlight_setCnt (h hsf hsb) (by omega) (by omega)

/-! ### The invariant of the core -/

theorem StepsTo.sending {s t : State} (h : StepsTo s t) (hs : CoreInv s) (hf : t.fault = none)
    (hb : t.busy = true) : InFlight t := by
  cases h with
  | reset => simp at hb
  | absorbed _ hsf => simp [hsf] at hf
  | whileBusy => simp at hf
  | illegal => simp at hf
  | @accepted rest i _ _ hsb =>
    by_cases hi : i = .send
    · subst hi
      exact inFlight_startSend hs.cfgLegal hs.repeatRange.1
    · simp [effectOf_busy_of_ne_send _ hi, hsb] at hb
  | ticks _ ht =>
    exact tick_keeps_sending (s := setInputs s.inputs.tail s) hs.cfgLegal
      (fun hsf hsb => inFlight_setInputs _ (hs.sending hsf hsb)) ht hf hb

/-- A tick leaves `BUSY` alone on a core that an illegal word has faulted (log 29). -/
theorem tick_of_illegalCommand {s : State} {r : FaultRecord} (hf : s.fault = some r)
    (hr : r.reason = .illegalCommand) : tick s = .next s := by
  simp [tick, hf, hr]

theorem StepsTo.illegalFault {s t : State} (h : StepsTo s t) (hs : CoreInv s) {r : FaultRecord}
    (hf : t.fault = some r) (hr : r.reason = .illegalCommand) : t.busy = false ∧ r.cw.legal = false := by
  cases h with
  | reset => simp at hf
  | absorbed => exact hs.illegalFault r hf hr
  | whileBusy =>
    rw [raiseFault_fault] at hf
    cases hf
    cases hr
  | illegal _ _ hsb hd =>
    rw [setFault_fault] at hf
    cases hf
    exact ⟨hsb, illegal_of_decode_error _ _ hd⟩
  | accepted _ hsf => simp [hsf] at hf
  | ticks _ ht =>
    obtain ⟨_, _, _, _, _, _, _, hfault, _, _⟩ := tick_keeps _ t ht
    rw [hfault] at hf
    rw [tick_of_illegalCommand hf hr] at ht
    cases ht
    exact hs.illegalFault r hf hr

/-- Settles O49: each clause of the invariant is kept, by what a step can do. -/
theorem stepKeepsInvariant : Obligations.StepKeepsInvariant := by
  intro s t hs h
  have hst := step_stepsTo h
  exact {
    cfgLegal := by rw [hst.cfg_eq]; exact hs.cfgLegal
    humMax := step_keeps_hum_le s t h hs.humMax
    tempwLow := step_keeps_tempLow s t h hs.tempwLow
    repeatRange := hst.repeatRange hs.repeatRange
    pinOutput := hst.pinOutput hs.pinOutput
    illegalFault := fun _ => hst.illegalFault hs
    sending := hst.sending hs }

/-- Settles O48: an idle core with the default parameters. -/
theorem invariantAtReset : Obligations.InvariantAtReset where
  cfgLegal := Config.default_wf
  humMax := Nat.zero_le 100
  tempwLow := by simp [State.reset, tempLow]
  repeatRange := ⟨le_rfl, Config.default_repeatMax_pos⟩
  pinOutput := rfl
  illegalFault := fun _ hf => by cases hf
  sending := fun _ hb => by cases hb

/-- Settles O46: the count 1 of `State.reset` is legal, because `REPEAT_MAX` is positive. -/
theorem resetStateValues : Obligations.ResetStateValues := by
  refine ⟨rfl, rfl, rfl, rfl, rfl, fun s hcfg hdraws hinputs => ?_⟩
  have hwf : Construct.wf { pin := State.reset.pin, id0 := State.reset.devid, n := State.reset.repeatCount }
      s.cfg.repeatMax = true := by
    simpa [Construct.wf, State.reset, hcfg] using Config.default_repeatMax_pos
  rw [resetWith, if_pos hwf]
  simp [constructed, State.reset, hcfg, hdraws, hinputs]

/-! ### The pin and `BUSY` (spec/10_state.md R21, R22) -/

/-- A tick that moves the pin ends a segment, or is one of a core that a word during a SEND has faulted. -/
theorem tick_moves_pin {s t : State} (ht : tick s = .next t) (hne : t.pinLevel ≠ s.pinLevel) :
    (s.fault = none ∧ s.busy = true ∧ s.cnt = 1) ∨ ∃ cw, s.fault = some { reason := .commandWhileBusy, cw := cw } := by
  obtain ⟨r, hf, hr, e⟩ | ⟨_, _, _, e⟩ | ⟨_, _, e⟩ | ⟨_, _, _, e⟩ | ⟨hf, hb, hc, e⟩ | ⟨_, _, _, e⟩ :=
    tick_cases s <;> rw [e] at ht <;> cases ht
  · exact .inr ⟨r.cw, by rw [hf, ← hr]⟩
  · exact absurd rfl hne
  · exact absurd rfl hne
  · exact .inl ⟨hf, hb, hc⟩
  · exact absurd rfl hne

/-- Settles O53: the cases of a step, less those that leave the pin. -/
theorem pinMovesOnlyBySend : Obligations.PinMovesOnlyBySend := by
  intro s t h hne
  cases step_stepsTo h with
  | reset hi hr => exact .inl ⟨_, _, _, hi, hr⟩
  | absorbed => exact absurd rfl hne
  | whileBusy hp hf hb =>
    obtain ⟨x, hi, hr, hc⟩ := hp
    exact .inr (.inr (.inr (.inl ⟨hf, hb, x, _, _, hi, hr, hc, raiseFault_fault _ _ _⟩)))
  | illegal => exact absurd rfl hne
  | @accepted rest i hp hf hb =>
    obtain ⟨x, hi, hr, hc⟩ := hp
    by_cases hsend : i = .send
    · exact .inr (.inl ⟨hf, hb, x, rest, hi, hr, hsend ▸ hc⟩)
    · exact absurd (effectOf_pinLevel_of_ne_send _ hsend) hne
  | ticks hp ht =>
    obtain ⟨hf, hb, hc⟩ | hfault := tick_moves_pin ht hne
    · exact .inr (.inr (.inl ⟨hf, hb, hc, hp⟩))
    · exact .inr (.inr (.inr (.inr ⟨hfault, hp⟩)))

theorem tick_of_idle {s : State} (hf : s.fault = none) (hb : s.busy = false) : tick s = .next s := by
  simp [tick, hf, hb]

/-- Settles O54: on an idle core without a fault every other case of a step leaves `BUSY` at 0. -/
theorem busyRisesOnlyBySend : Obligations.BusyRisesOnlyBySend := by
  intro s t h hf hb hbusy
  cases step_stepsTo h with
  | reset => simp at hbusy
  | absorbed => simp [hb] at hbusy
  | whileBusy _ _ hb' => rw [hb] at hb'; cases hb'
  | illegal => simp [hb] at hbusy
  | @accepted rest i hp =>
    obtain ⟨x, hi, hr, hc⟩ := hp
    by_cases hsend : i = .send
    · exact ⟨x, rest, hi, hr, hsend ▸ hc⟩
    · simp [effectOf_busy_of_ne_send _ hsend, hb] at hbusy
  | ticks _ ht =>
    rw [tick_of_idle (s := setInputs s.inputs.tail s) hf hb] at ht
    cases ht
    simp [hb] at hbusy

end Sys2Proof.Machine
end

section
/-! PROOFS. The encodings (spec/30_encoding.md): the decoder and the illegal words, the words of the assembler. -/

namespace Sys2Proof

/-! ### The decoder, in numbers (spec/30_encoding.md R40 to R42, R50) -/

theorem opcodeField_eq_iff (cw : CmdWord) (op : Byte) : opcodeField cw = op ↔ cw.toNat / 2 ^ 32 = op.toNat := by
  rw [← BitVec.toNat_inj, opcodeField_toNat]

theorem operandHigh_eq_zero_iff (cw : CmdWord) : operandHigh cw = 0#24 ↔ cw.toNat % 2 ^ 32 < 2 ^ 8 := by
  rw [← BitVec.toNat_inj, operandHigh_toNat, BitVec.toNat_ofNat]
  omega

theorem operandField_eq_zero_iff (cw : CmdWord) : operandField cw = 0#32 ↔ cw.toNat % 2 ^ 32 = 0 := by
  rw [← BitVec.toNat_inj, operandField_toNat, BitVec.toNat_ofNat]

/-- The illegal words of R50, by opcode and operand number. -/
def IllegalNumbers (op opd : Nat) : Prop :=
  op = 0 ∨ 5 ≤ op ∨ ((op = 1 ∨ op = 2) ∧ 2 ^ 8 ≤ opd) ∨ (op = 4 ∧ 1 ≤ opd)

/-- The decoder rejects the words of R50 and no others. -/
theorem decode_error_iff (cw : CmdWord) :
    (∃ e, decode cw = .error e) ↔ IllegalNumbers (cw.toNat / 2 ^ 32) (cw.toNat % 2 ^ 32) := by
  simp only [decode, opcodeField_eq_iff, operandHigh_eq_zero_iff, operandField_eq_zero_iff, BitVec.toNat_ofNat]
  unfold IllegalNumbers
  split_ifs <;> simp <;> omega

/-- The fields of a word that carries an 8-bit operand. -/
theorem fields_of_toNat {cw : CmdWord} {op v : Byte} (h : cw.toNat = op.toNat * 2 ^ 32 + v.toNat) :
    opcodeField cw = op ∧ operandHigh cw = 0#24 ∧ operandLow cw = v := by
  refine ⟨(opcodeField_eq_iff cw op).mpr (by omega), (operandHigh_eq_zero_iff cw).mpr (by omega), ?_⟩
  apply BitVec.eq_of_toNat_eq
  rw [operandLow_toNat]
  omega

/-- The fields of a word that carries a 32-bit operand. -/
theorem operand_of_toNat {cw : CmdWord} {op : Byte} {t : Operand} (h : cw.toNat = op.toNat * 2 ^ 32 + t.toNat) :
    opcodeField cw = op ∧ operandField cw = t := by
  refine ⟨(opcodeField_eq_iff cw op).mpr (by omega), ?_⟩
  apply BitVec.eq_of_toNat_eq
  rw [operandField_toNat]
  omega

/-- The decoder reads every command back from its word. -/
theorem decode_encode (i : Instr) : decode (encode i) = .ok i := by
  cases i with
  | setid id =>
    obtain ⟨hop, hres, hlow⟩ := fields_of_toNat (op := 0x01#8) (encode_setid_toNat id)
    simp [decode, hop, hres, hlow]
  | sethum h =>
    obtain ⟨hop, hres, hlow⟩ := fields_of_toNat (op := 0x02#8) (encode_sethum_toNat h)
    simp [decode, hop, hres, hlow]
  | settemp t =>
    obtain ⟨hop, hopd⟩ := operand_of_toNat (op := 0x03#8) (encode_settemp_toNat t)
    simp [decode, hop, hopd]
  | send => rfl

/-- Settles O1: `encode` is a two-sided inverse of the decoder on the words that it accepts. -/
theorem decodeEncodeAgree : Obligations.DecodeEncodeAgree := by
  intro cw i
  constructor
  · exact encode_of_decode cw i
  · rintro rfl
    exact decode_encode i

/-- A command's word lies in the command's row of the opcode table. -/
theorem legal_encode (i : Instr) : (encode i).legal = true := by
  simp only [CmdWord.legal, opcodeTable, List.any_cons, List.any_nil, OpcodeRow.covers, Bool.or_false,
    Bool.or_eq_true, beq_iff_eq]
  cases i with
  | setid id  => exact .inl (Laws.EncodeFitsTable.setid id)
  | sethum h  => exact .inr (.inl (Laws.EncodeFitsTable.sethum h))
  | settemp t => exact .inr (.inr (.inl (Laws.EncodeFitsTable.settemp t)))
  | send      => exact .inr (.inr (.inr Laws.EncodeFitsTable.send))

/-- A word that the decoder rejects faults a ready core. -/
theorem faultsAsIllegal_of_decode_error {cw : CmdWord} {e : DecodeReject} (h : decode cw = .error e) :
    FaultsAsIllegal cw := by
  intro s hf hb
  obtain ⟨i, hd, _⟩ | ⟨_, _, hp⟩ := Machine.present_cases cw s
  · rw [h] at hd; cases hd
  · rw [hp, Machine.accept_ready _ _ _ hf hb, Machine.raiseFault_idle _ _ _ hb]
    rfl

/-- Settles O2: the decoder's rejections in numbers, and the opcode table's rows as the words of the commands. -/
theorem illegalWordsExactly : Obligations.IllegalWordsExactly := by
  intro cw
  constructor
  · intro hill
    obtain ⟨e, he⟩ := (decode_error_iff cw).mpr hill
    exact ⟨⟨e, he⟩, illegal_of_decode_error cw e he, faultsAsIllegal_of_decode_error he⟩
  · intro hok
    cases hd : decode cw with
    | error e => exact absurd ((decode_error_iff cw).mp ⟨e, hd⟩) hok
    | ok i    => exact ⟨⟨i, rfl⟩, encode_of_decode cw i hd ▸ legal_encode i⟩

/-- Settles O3: the five words are the encodings of the five commands. -/
theorem writtenWordsDecode : Obligations.WrittenWordsDecode :=
  ⟨decode_encode (.setid 0x3C#8), decode_encode (.sethum 200#8), decode_encode (.settemp 0x41AC0000#32),
    decode_encode (.settemp 0xFFFFFFFF#32), decode_encode .send⟩

end Sys2Proof

namespace Sys2Proof.Machine

/-! ### The words of the assembler (spec/30_encoding.md R51) -/

theorem wordOf_eq {cw : CmdWord} {op opd : Nat} (h : cw.toNat = op * 2 ^ 32 + opd) : wordOf op opd = cw := by
  rw [wordOf, ← h, BitVec.ofNat_toNat, BitVec.setWidth_eq]

theorem encode_setid_eq (id : Byte) : encode (.setid id) = wordOf 0x01 id.toNat :=
  (wordOf_eq (encode_setid_toNat id)).symm

theorem encode_sethum_eq (h : Byte) : encode (.sethum h) = wordOf 0x02 h.toNat :=
  (wordOf_eq (encode_sethum_toNat h)).symm

theorem encode_settemp_eq (t : Operand) : encode (.settemp t) = wordOf 0x03 t.toNat :=
  (wordOf_eq (encode_settemp_toNat t)).symm

theorem imm8_of_mem {n : Int} (h0 : 0 ≤ n) (h255 : n ≤ 255) : ∃ b : Byte, imm8 n = some b ∧ b.toNat = n.toNat := by
  refine ⟨BitVec.ofNat 8 n.toNat, if_pos ⟨h0, h255⟩, ?_⟩
  rw [BitVec.toNat_ofNat]
  omega

theorem imm8_of_not_mem {n : Int} (h : n < 0 ∨ 255 < n) : imm8 n = none := if_neg (by omega)

/-- Settles O56: one clause for each form of a line. -/
theorem assemblerWords : Obligations.AssemblerWords := by
  refine ⟨fun n h0 h255 => ?imm, fun n h => ?range, fun t => ?raw, rfl, fun d t h => ?real⟩
  case imm =>
    obtain ⟨b, hb, hn⟩ := imm8_of_mem h0 h255
    simp [assemble, hb, encode_setid_eq, encode_sethum_eq, hn]
  case range => simp [assemble, imm8_of_not_mem h]
  case raw => simp [assemble, encode_settemp_eq]
  case real => simp [assemble, h, encode_settemp_eq]

end Sys2Proof.Machine
end

section
/-! PROOFS. The frame and its segment list (spec/30_encoding.md R44 to R49), and the number of its 0 bits. -/

namespace Sys2Proof.Machine

/-! ### The temperature word (spec/30_encoding.md R44) -/

theorem packTemp_toNat (sign : BitVec 1) (mag : BitVec 11) :
    (packTemp sign mag).toNat = sign.toNat * 2 ^ 15 + mag.toNat * 2 ^ 4 := by
  simp only [packTemp, toNat_concat, BitVec.toNat_ofNat]
  omega

@[simp] theorem tempSign_packTemp (sign : BitVec 1) (mag : BitVec 11) : tempSign (packTemp sign mag) = sign := by
  apply BitVec.eq_of_toNat_eq
  rw [tempSign, toNat_slice, packTemp_toNat]
  omega

@[simp] theorem tempMag_packTemp (sign : BitVec 1) (mag : BitVec 11) : tempMag (packTemp sign mag) = mag := by
  apply BitVec.eq_of_toNat_eq
  rw [tempMag, toNat_slice, packTemp_toNat]
  omega

/-- Settles O20: the packed number gives the fields, and the fields give the value. -/
theorem temperatureWordFields : Obligations.TemperatureWordFields := by
  intro sign mag
  refine ⟨packTemp_toNat sign mag, tempSign_packTemp sign mag, tempMag_packTemp sign mag, tempLow_packTemp sign mag, ?_⟩
  rw [decodedTemperature, tempSign_packTemp, tempMag_packTemp]

/-! ### The fields of the frame (spec/30_encoding.md R45) -/

theorem slice_eq {n : Nat} {f : Frame} {lo len : Nat} {v : BitVec len} (hn : f.toNat = n)
    (h : n / 2 ^ lo % 2 ^ len = v.toNat) : f.extractLsb' lo len = v := by
  apply BitVec.eq_of_toNat_eq
  rw [toNat_slice, hn, h]

/-- Settles O25: each field is a slice of the frame's number. -/
theorem frameLayout : Obligations.FrameLayout := by
  intro d w h
  have hn := frame_toNat d w h
  exact ⟨hn, slice_eq hn (by rw [BitVec.toNat_ofNat]; omega), slice_eq hn (by rw [BitVec.toNat_ofNat]; omega),
    slice_eq hn (by omega), slice_eq hn (by omega), slice_eq hn (by omega),
    slice_eq hn (by rw [BitVec.toNat_ofNat]; omega)⟩

/-! ### The bits in the order sent (spec/30_encoding.md R46) -/

/-- A bit sent from within a field of the frame is a bit of that field. -/
theorem bitSent_of_field {f : Frame} {lo len i : Nat} {v : BitVec len} (hv : f.extractLsb' lo len = v)
    (hlo : lo ≤ 51 - i) (hlen : 51 - i < lo + len) : bitSent f i = v.getLsbD (51 - lo - i) := by
  have hk : 51 - lo - i < len := by omega
  have hadd : lo + (51 - lo - i) = 51 - i := by omega
  rw [← hv, BitVec.getLsbD_extractLsb', decide_eq_true hk, Bool.true_and, hadd, bitSent]

theorem getLsbD_ones {k : Nat} (h : k < 8) : (0xFF#8).getLsbD k = true := by
  rw [show 0xFF#8 = BitVec.allOnes 8 from rfl, BitVec.getLsbD_allOnes, decide_eq_true h]

/-- Settles O26: each range of bits lies in one field of the frame. -/
theorem frameBitsInOrderSent : Obligations.FrameBitsInOrderSent := by
  intro d w h i
  obtain ⟨_, hstart, hnibble, hd, hw, hh, hsum⟩ := frameLayout d w h
  refine ⟨rfl, fun h8 => ?_, fun h8 h12 => ?_, fun h12 h20 => bitSent_of_field hd (by omega) (by omega),
    fun h20 h36 => bitSent_of_field hw (by omega) (by omega), fun h36 h44 => bitSent_of_field hh (by omega) (by omega),
    fun h44 h52 => ?_⟩
  · exact (bitSent_of_field hstart (by omega) (by omega)).trans (getLsbD_ones (by omega))
  · exact (bitSent_of_field hnibble (by omega) (by omega)).trans BitVec.getLsbD_zero
  · exact (bitSent_of_field hsum (by omega) (by omega)).trans (getLsbD_ones (by omega))

/-! ### The segment list (spec/30_encoding.md R47 to R49) -/

theorem segmentAt_even (pl : Nat) (f : Frame) {i : Nat} (h : i < 52) :
    segmentAt pl f ⟨2 * i, by omega⟩ = highSegment pl (bitSent f i) := by
  have h104 : 2 * i ≠ 104 := by omega
  simp [segmentAt, h104]

theorem segmentAt_odd (pl : Nat) (f : Frame) {i : Nat} (h : i < 52) :
    segmentAt pl f ⟨2 * i + 1, by omega⟩ = lowSegment pl := by
  have h104 : 2 * i + 1 ≠ 104 := by omega
  simp [segmentAt, h104]

/-- Settles O27: a segment by the parity of its place. -/
theorem segmentListOfFrame : Obligations.SegmentListOfFrame := by
  intro pl f
  refine ⟨segs_length pl f, fun i h => ⟨?_, ?_⟩, segs_get pl f 104 (by omega)⟩
  · rw [segs_get pl f _ (by omega), segmentAt_even pl f h]
    rfl
  · rw [segs_get pl f _ (by omega), segmentAt_odd pl f h]
    rfl

/-! ### The duration of a frame (spec/30_encoding.md R49) -/

theorem highSegment_dur (pl : Nat) (b : Bool) : (highSegment pl b).dur = if b then pl else 3 * pl := by
  simp [highSegment]

/-- Bits sent last 3×PL each, and 2×PL more for each 0 among them. -/
theorem duration_bits (pl : Nat) (f : Frame) (l : List Nat) :
    duration (l.flatMap fun i => [highSegment pl (bitSent f i), lowSegment pl]) =
      (3 * l.length + 2 * l.countP fun i => !bitSent f i) * pl := by
  induction l with
  | nil => simp [duration]
  | cons i l ih =>
    rw [List.flatMap_cons, duration_append, ih, duration_cons, duration_cons, highSegment_dur, List.length_cons,
      List.countP_cons]
    cases bitSent f i <;> simp [lowSegment, duration] <;> ring

/-- Settles O28: the 52 bits, and the stop of 9×PL. -/
theorem frameDuration : Obligations.FrameDuration := by
  intro pl f
  rw [segs_by_bits, duration_append, duration_bits, List.length_range, ← zeroBits]
  simp [duration, stopSegment]
  ring

/-! ### The number of 0 bits (spec/30_encoding.md R49) -/

/-- The number of 0 bits among the `len` bits sent from bit `start` on. -/
def zerosSent (f : Frame) (start len : Nat) : Nat := (List.range len).countP fun i => !bitSent f (start + i)

theorem zeroBits_eq_zerosSent (f : Frame) : zeroBits f = zerosSent f 0 52 := by
  simp [zeroBits, zerosSent]

theorem zerosSent_add (f : Frame) (start m n : Nat) :
    zerosSent f start (m + n) = zerosSent f start m + zerosSent f (start + m) n := by
  simp only [zerosSent, List.range_add, List.countP_append, List.countP_map, Function.comp_def, Nat.add_assoc]

theorem zerosSent_le (f : Frame) (start len : Nat) : zerosSent f start len ≤ len := by
  simpa [zerosSent] using List.countP_le_length (p := fun i => !bitSent f (start + i)) (l := List.range len)

theorem zerosSent_of_true {f : Frame} {start len : Nat} (h : ∀ i, i < len → bitSent f (start + i) = true) :
    zerosSent f start len = 0 := by
  simpa [zerosSent, List.countP_eq_zero] using h

theorem zerosSent_of_false {f : Frame} {start len : Nat} (h : ∀ i, i < len → bitSent f (start + i) = false) :
    zerosSent f start len = len := by
  have hall : zerosSent f start len = (List.range len).length :=
    List.countP_eq_length.mpr fun i hi => by simp [h i (List.mem_range.mp hi)]
  rw [hall, List.length_range]

/-- `HUM` of at most 100 has two 0 bits: 127 is above it, and with it every pattern of one 0 bit. -/
theorem two_le_zeros_of_le_100 : ∀ h : Byte, h.toNat ≤ 100 → 2 ≤ (List.range 8).countP fun i => !h.getLsbD (7 - i) := by
  decide

theorem two_le_zerosSent_hum (d : Byte) (w : TempWord) {h : Byte} (hh : h.toNat ≤ 100) :
    2 ≤ zerosSent (frame d w h) 36 8 := by
  have hbits : zerosSent (frame d w h) 36 8 = (List.range 8).countP fun i => !h.getLsbD (7 - i) := by
    refine List.countP_congr fun i hi => ?_
    obtain ⟨_, _, _, _, _, hhum, _⟩ := frameBitsInOrderSent d w h (36 + i)
    have hi8 : i < 8 := List.mem_range.mp hi
    rw [hhum (by omega) (by omega), show 43 - (36 + i) = 7 - i by omega]
  rw [hbits]
  exact two_le_zeros_of_le_100 h hh

/-- The low bits of `TEMPW` are sent as four 0 bits. -/
theorem zerosSent_tempLow (d h : Byte) {w : TempWord} (hw : tempLow w = 0) : zerosSent (frame d w h) 32 4 = 4 := by
  refine zerosSent_of_false fun i hi => ?_
  obtain ⟨_, _, _, _, htemp, _⟩ := frameBitsInOrderSent d w h (32 + i)
  rw [htemp (by omega) (by omega)]
  have hbit : (tempLow w).getLsbD (35 - (32 + i)) = false := by rw [hw]; exact BitVec.getLsbD_zero
  rw [tempLow, BitVec.getLsbD_extractLsb', decide_eq_true (by omega), Bool.true_and, Nat.zero_add] at hbit
  exact hbit

/-- The 0 bits of a frame, field by field: none in the start marker and the checksum, four in the nibble. -/
theorem zeroBits_frame (d : Byte) (w : TempWord) (h : Byte) :
    zeroBits (frame d w h) = 4 + zerosSent (frame d w h) 12 8 + zerosSent (frame d w h) 20 12 +
      zerosSent (frame d w h) 32 4 + zerosSent (frame d w h) 36 8 := by
  have hbits := frameBitsInOrderSent d w h
  have hstart : zerosSent (frame d w h) 0 8 = 0 := zerosSent_of_true fun i hi => by
    obtain ⟨_, hb, _⟩ := hbits (0 + i)
    exact hb (by omega)
  have hnibble : zerosSent (frame d w h) 8 4 = 4 := zerosSent_of_false fun i hi => by
    obtain ⟨_, _, hb, _⟩ := hbits (8 + i)
    exact hb (by omega) (by omega)
  have hsum : zerosSent (frame d w h) 44 8 = 0 := zerosSent_of_true fun i hi => by
    obtain ⟨_, _, _, _, _, _, hb⟩ := hbits (44 + i)
    exact hb (by omega) (by omega)
  rw [zeroBits_eq_zerosSent, zerosSent_add _ 0 8 44, zerosSent_add _ 8 4 40, zerosSent_add _ 12 8 32,
    zerosSent_add _ 20 12 20, zerosSent_add _ 32 4 16, zerosSent_add _ 36 8 8, hstart, hnibble, hsum]
  ring

/-- Settles O29: the nibble and the low bits of `TEMPW` are eight 0 bits, `HUM` has two more; `DEVID`, `TEMPW[15:4]` and
`HUM` have 28 bits. -/
theorem frameZeroBitsRange : Obligations.FrameZeroBitsRange := by
  refine ⟨fun d w h hh hw => ?_, by decide, by decide⟩
  have hd := zerosSent_le (frame d w h) 12 8
  have ht := zerosSent_le (frame d w h) 20 12
  have hhum := zerosSent_le (frame d w h) 36 8
  have hhum2 := two_le_zerosSent_hum d w hh
  rw [zeroBits_frame, zerosSent_tempLow d h hw]
  omega

end Sys2Proof.Machine
end

section
/-! PROOFS. binary32: the value of a pattern (spec/30_encoding.md R43), the rounding of a fraction
(spec/40_encoder.md R58), and the pattern of a decimal literal (spec/30_encoding.md R51). -/

namespace Sys2Proof.Machine

/-! ### The value of a pattern (spec/30_encoding.md R43) -/

theorem floatSign_eq_ofNat (t : Operand) : floatSign t = BitVec.ofNat 1 (t.toNat / 2 ^ 31) := by
  apply BitVec.eq_of_toNat_eq
  rw [floatSign, toNat_slice, BitVec.toNat_ofNat]

theorem floatSign_toNat (t : Operand) : (floatSign t).toNat = t.toNat / 2 ^ 31 := by
  have h := t.isLt
  rw [floatSign, toNat_slice]
  omega

theorem floatExp_toNat (t : Operand) : (floatExp t).toNat = t.toNat / 2 ^ 23 % 2 ^ 8 := by
  rw [floatExp, toNat_slice]

theorem floatFrac_toNat (t : Operand) : (floatFrac t).toNat = t.toNat % 2 ^ 23 := by
  rw [floatFrac, toNat_slice]
  omega

theorem floatExp_eq_iff (t : Operand) (e : Byte) : floatExp t = e ↔ t.toNat / 2 ^ 23 % 2 ^ 8 = e.toNat := by
  rw [← BitVec.toNat_inj, floatExp_toNat]

theorem floatFrac_eq_zero_iff (t : Operand) : floatFrac t = 0 ↔ t.toNat % 2 ^ 23 = 0 := by
  rw [← BitVec.toNat_inj, floatFrac_toNat]
  rfl

theorem floatFinite_iff (t : Operand) : floatFinite t = true ↔ t.toNat / 2 ^ 23 % 2 ^ 8 ≠ 255 := by
  rw [floatFinite, bne_iff_ne, ne_eq, floatExp_eq_iff]
  rfl

theorem floatValue_of_finite {t : Operand} (h : t.toNat / 2 ^ 23 % 2 ^ 8 ≠ 255) :
    floatValue t = .finite ((-1) ^ (t.toNat / 2 ^ 31) * (floatSig t : ℚ) * 2 ^ floatE2 t) := by
  rw [floatValue, if_pos ((floatFinite_iff t).mpr h), floatSign_toNat]

theorem floatSig_of_exp_zero {t : Operand} (h : t.toNat / 2 ^ 23 % 2 ^ 8 = 0) : floatSig t = t.toNat % 2 ^ 23 := by
  rw [floatSig, if_pos ((floatExp_eq_iff t 0).mpr h), floatFrac_toNat]

theorem floatE2_of_exp_zero {t : Operand} (h : t.toNat / 2 ^ 23 % 2 ^ 8 = 0) : floatE2 t = -149 := by
  rw [floatE2, if_pos ((floatExp_eq_iff t 0).mpr h)]

theorem floatSig_of_exp_ne_zero {t : Operand} (h : t.toNat / 2 ^ 23 % 2 ^ 8 ≠ 0) :
    floatSig t = 2 ^ 23 + t.toNat % 2 ^ 23 := by
  rw [floatSig, if_neg (mt (floatExp_eq_iff t 0).mp h), floatFrac_toNat]

theorem floatE2_of_exp_ne_zero {t : Operand} (h : t.toNat / 2 ^ 23 % 2 ^ 8 ≠ 0) :
    floatE2 t = ((t.toNat / 2 ^ 23 % 2 ^ 8 : ℕ) : ℤ) - 150 := by
  rw [floatE2, if_neg (mt (floatExp_eq_iff t 0).mp h), floatExp_toNat]

/-- Settles O11: the four cases of the exponent and fraction fields. -/
theorem floatValueOfPattern : Obligations.FloatValueOfPattern := by
  intro t ts te tf
  have hfin : te = 255 → floatFinite t ≠ true := fun h hf => (floatFinite_iff t).mp hf h
  refine ⟨fun hte htf => ?inf, fun hte htf => ?nan, fun hte => ?subnormal, fun hte hte' => ?normal⟩
  case inf => rw [floatValue, if_neg (hfin hte), if_pos ((floatFrac_eq_zero_iff t).mpr htf), floatSign_eq_ofNat]
  case nan => rw [floatValue, if_neg (hfin hte), if_neg (mt (floatFrac_eq_zero_iff t).mp htf)]
  case subnormal =>
    have hte' : te ≠ 255 := by omega
    rw [floatValue_of_finite hte', floatSig_of_exp_zero hte, floatE2_of_exp_zero hte]
  case normal =>
    rw [floatValue_of_finite hte', floatSig_of_exp_ne_zero hte, floatE2_of_exp_ne_zero hte, Nat.cast_add, Nat.cast_pow,
      Nat.cast_ofNat]

/-! ### Fractions of naturals (spec/40_encoder.md R58) -/

/-- An integer power as a fraction of natural powers. -/
theorem zpow_eq_toNat_div {b : ℚ} (hb : b ≠ 0) (e : ℤ) : b ^ e = b ^ e.toNat / b ^ (-e).toNat := by
  rw [← zpow_natCast, ← zpow_natCast, ← zpow_sub₀ hb]
  congr 1
  omega

theorem scaleDown_den_pos {den : ℕ} (hden : 0 < den) (num : ℕ) (e : ℤ) : 0 < (scaleDown num den e).2 :=
  Nat.mul_pos hden (Nat.two_pow_pos _)

/-- `scaleDown` divides by `2^e`. -/
theorem scaleDown_div (num den : ℕ) (e : ℤ) :
    ((scaleDown num den e).1 : ℚ) / (scaleDown num den e).2 = num / den / 2 ^ e := by
  rw [zpow_eq_toNat_div two_ne_zero, scaleDown]
  push_cast
  field_simp

/-- The rounding of a fraction, in integers: the distance from the result is at most half, and a tie is even. -/
theorem roundTiesToEven_bounds (num : ℕ) {den : ℕ} (hden : 0 < den) :
    let n := roundTiesToEven num den
    2 * n * den ≤ 2 * num + den ∧ 2 * num ≤ 2 * n * den + den ∧
    (2 * n * den = 2 * num + den ∨ 2 * num = 2 * n * den + den → n % 2 = 0) := by
  have hr := Nat.mod_lt num hden
  have hnum := Nat.div_add_mod num den
  simp only [roundTiesToEven]
  generalize num / den = m at *
  generalize num % den = r at *
  subst hnum
  split_ifs with h1 h2 h3
  all_goals
    simp only [Nat.mul_add, Nat.add_mul, Nat.mul_one]
    rw [show 2 * m * den = 2 * (den * m) by ring]
    omega

/-- `roundTiesToEven` rounds as R58 says. -/
theorem roundsTo_roundTiesToEven (num : ℕ) {den : ℕ} (hden : 0 < den) :
    RoundsTo (roundTiesToEven num den) ((num : ℚ) / den) := by
  obtain ⟨hlo, hhi, heven⟩ := roundTiesToEven_bounds num hden
  generalize roundTiesToEven num den = n at *
  have hd : (0 : ℚ) < den := by exact_mod_cast hden
  have hlo' : 2 * (n : ℚ) * den ≤ 2 * num + den := by exact_mod_cast hlo
  have hhi' : 2 * (num : ℚ) ≤ 2 * n * den + den := by exact_mod_cast hhi
  refine ⟨?_, ?_, fun htie => heven ?_⟩
  · rw [le_div_iff₀ hd]; linarith
  · rw [div_le_iff₀ hd]; linarith
  · rw [div_eq_iff hd.ne', div_eq_iff hd.ne'] at htie
    refine htie.imp (fun h => ?_) fun h => ?_
    · have : 2 * (n : ℚ) * den = 2 * num + den := by linarith
      exact_mod_cast this
    · have : 2 * (num : ℚ) = 2 * n * den + den := by linarith
      exact_mod_cast this

/-! ### The quantum (spec/40_encoder.md R58) -/

theorem two_zpow_log2_le {n : ℕ} (hn : n ≠ 0) : (2 : ℚ) ^ (n.log2 : ℤ) ≤ n := by
  rw [zpow_natCast]
  exact_mod_cast Nat.log2_self_le hn

theorem lt_two_zpow_log2 (n : ℕ) : (n : ℚ) < 2 ^ ((n.log2 : ℤ) + 1) := by
  rw [← Nat.cast_succ, zpow_natCast]
  exact_mod_cast Nat.lt_log2_self

theorem scaleDown_lt_iff (num : ℕ) {den : ℕ} (hden : 0 < den) (e : ℤ) :
    (scaleDown num den e).1 < (scaleDown num den e).2 ↔ (num : ℚ) / den < 2 ^ e := by
  have hpos : (0 : ℚ) < (scaleDown num den e).2 := by exact_mod_cast scaleDown_den_pos hden num e
  rw [← div_lt_one (by positivity : (0 : ℚ) < 2 ^ e), ← scaleDown_div, div_lt_one hpos, Nat.cast_lt]

/-- A comparison of scaled naturals, as one of rationals. -/
theorem scaled_le_iff (m n : ℕ) (e : ℤ) : m * 2 ^ (-e).toNat ≤ n * 2 ^ e.toNat ↔ (m : ℚ) ≤ n * 2 ^ e := by
  rw [zpow_eq_toNat_div two_ne_zero, ← mul_div_assoc, le_div_iff₀ (by positivity)]
  exact_mod_cast Iff.rfl

theorem int_log_eq {v : ℚ} {e : ℤ} (hlo : 2 ^ e ≤ v) (hhi : v < 2 ^ (e + 1)) : Int.log 2 v = e := by
  have hv : 0 < v := lt_of_lt_of_le (by positivity) hlo
  have h1 := (Int.zpow_le_iff_le_log one_lt_two hv).mp (by exact_mod_cast hlo)
  have h2 := (Int.lt_zpow_iff_log_lt one_lt_two hv).mp (by exact_mod_cast hhi)
  omega

/-- `floorLog2` is the logarithm of the quotient: that of the numerator less that of the denominator, or one less. -/
theorem floorLog2_eq {num den : ℕ} (hnum : num ≠ 0) (hden : 0 < den) :
    floorLog2 num den = Int.log 2 ((num : ℚ) / den) := by
  have hd : (0 : ℚ) < den := by exact_mod_cast hden
  have hnlo := two_zpow_log2_le hnum
  have hnhi := lt_two_zpow_log2 num
  have hdlo := two_zpow_log2_le hden.ne'
  have hdhi := lt_two_zpow_log2 den
  have hsplit (a b : ℤ) : (2 : ℚ) ^ (a + b) = 2 ^ a * 2 ^ b := zpow_add₀ two_ne_zero a b
  generalize he : (num.log2 : ℤ) - den.log2 = e
  have hlo : (2 : ℚ) ^ (e - 1) ≤ num / den := by
    rw [le_div_iff₀ hd]
    calc (2 : ℚ) ^ (e - 1) * den ≤ 2 ^ (e - 1) * 2 ^ ((den.log2 : ℤ) + 1) := by gcongr
      _ = 2 ^ (num.log2 : ℤ) := by rw [← hsplit, ← he]; congr 1; ring
      _ ≤ num := hnlo
  have hhi : (num : ℚ) / den < 2 ^ (e + 1) := by
    rw [div_lt_iff₀ hd]
    calc (num : ℚ) < 2 ^ ((num.log2 : ℤ) + 1) := hnhi
      _ = 2 ^ (e + 1) * 2 ^ (den.log2 : ℤ) := by rw [← hsplit, ← he]; congr 1; ring
      _ ≤ 2 ^ (e + 1) * den := by gcongr
  simp only [floorLog2, he, scaleDown_lt_iff num hden]
  split_ifs with h
  · exact (int_log_eq hlo (by rwa [sub_add_cancel])).symm
  · exact (int_log_eq (not_lt.mp h) hhi).symm

/-- The exponent of two of the binary32 quantum of a magnitude; `quantumExp_eq` ties it to the model. -/
def binary32QuantumExp (v : ℚ) : ℤ := max (Int.log 2 v) (-126) - 23

theorem quantumExp_eq {num den : ℕ} (hnum : num ≠ 0) (hden : 0 < den) :
    quantumExp num den = binary32QuantumExp ((num : ℚ) / den) := by
  rw [quantumExp, floorLog2_eq hnum hden, binary32QuantumExp]

theorem binary32QuantumExp_ge (v : ℚ) : -149 ≤ binary32QuantumExp v := by
  unfold binary32QuantumExp
  omega

/-- A magnitude is less than `2^24` quanta. -/
theorem lt_quanta (v : ℚ) : v < 2 ^ 24 * 2 ^ binary32QuantumExp v := by
  have hle : Int.log 2 v + 1 ≤ 24 + binary32QuantumExp v := by unfold binary32QuantumExp; omega
  calc v < 2 ^ (Int.log 2 v + 1) := by exact_mod_cast Int.lt_zpow_succ_log_self one_lt_two v
    _ ≤ 2 ^ (24 + binary32QuantumExp v) := zpow_le_zpow_right₀ one_le_two hle
    _ = 2 ^ 24 * 2 ^ binary32QuantumExp v := zpow_add₀ two_ne_zero 24 _

/-- Above the least quantum a magnitude is at least `2^23` quanta. -/
theorem quanta_le {v : ℚ} (hv : 0 < v) (he : -149 < binary32QuantumExp v) : 2 ^ 23 * 2 ^ binary32QuantumExp v ≤ v := by
  have hlog : 23 + binary32QuantumExp v = Int.log 2 v := by unfold binary32QuantumExp at *; omega
  calc (2 : ℚ) ^ 23 * 2 ^ binary32QuantumExp v = 2 ^ (23 + binary32QuantumExp v) :=
        (zpow_add₀ two_ne_zero 23 _).symm
    _ = 2 ^ Int.log 2 v := by rw [hlog]
    _ ≤ v := by exact_mod_cast Int.zpow_log_le_self one_lt_two hv

/-! ### The rounded magnitude (spec/40_encoder.md R58) -/

section
variable {v : ℚ} {n : ℕ}

theorem le_two_pow_24_of_roundsTo (h : RoundsTo n (v / 2 ^ binary32QuantumExp v)) : n ≤ 2 ^ 24 := by
  obtain ⟨hlo, _⟩ := h
  have hx : v / 2 ^ binary32QuantumExp v < 2 ^ 24 := (div_lt_iff₀ (by positivity)).mpr (lt_quanta v)
  have hn : (n : ℚ) < (2 ^ 24 + 1 : ℕ) := by push_cast; linarith
  exact Nat.lt_succ_iff.mp (by exact_mod_cast hn)

theorem two_pow_23_le_of_roundsTo (hv : 0 < v) (he : -149 < binary32QuantumExp v)
    (h : RoundsTo n (v / 2 ^ binary32QuantumExp v)) : 2 ^ 23 ≤ n := by
  obtain ⟨_, hhi, _⟩ := h
  have hx : 2 ^ 23 ≤ v / 2 ^ binary32QuantumExp v := (le_div_iff₀ (by positivity)).mpr (quanta_le hv he)
  have hn : ((2 ^ 23 : ℕ) : ℚ) < (n + 1 : ℕ) := by push_cast; linarith
  exact Nat.lt_succ_iff.mp (by exact_mod_cast hn)

/-- The nearest integer is `2^24` from `2^24 - 1/2` on: that tie goes up, because `2^24 - 1` is odd. -/
theorem two_pow_24_le_iff_of_roundsTo {x : ℚ} (h : RoundsTo n x) : 2 ^ 24 ≤ n ↔ (2 : ℚ) ^ 24 - 1 / 2 ≤ x := by
  obtain ⟨hlo, hhi, htie⟩ := h
  constructor
  · intro hn
    have hn' : ((2 ^ 24 : ℕ) : ℚ) ≤ n := by exact_mod_cast hn
    push_cast at hn'
    linarith
  · intro hx
    by_contra hn
    have hle : n ≤ 2 ^ 24 - 1 := by omega
    have hle' : (n : ℚ) ≤ (2 ^ 24 - 1 : ℕ) := by exact_mod_cast hle
    push_cast at hle'
    have heq : (n : ℚ) = (2 ^ 24 - 1 : ℕ) := by push_cast; linarith
    have hodd : n = 2 ^ 24 - 1 := by exact_mod_cast heq
    have heven := htie (.inr (by push_cast at heq; linarith))
    omega

/-- The rounded magnitude overflows from half a quantum below `2^128` on. -/
theorem overflow_iff (hv : 0 < v) (h : RoundsTo n (v / 2 ^ binary32QuantumExp v)) :
    (2 : ℚ) ^ 128 ≤ n * 2 ^ binary32QuantumExp v ↔ (2 - 1 / 2 ^ 24) * 2 ^ 127 ≤ v := by
  have hlt := lt_quanta v
  have hle := quanta_le hv
  have hn24 := le_two_pow_24_of_roundsTo h
  have hn23 := two_pow_23_le_of_roundsTo hv (h := h)
  generalize binary32QuantumExp v = e at *
  have hpos : (0 : ℚ) < 2 ^ e := by positivity
  obtain hsmall | rfl | hlarge := lt_trichotomy e 104
  · have he : (2 : ℚ) ^ e ≤ 2 ^ (103 : ℤ) := zpow_le_zpow_right₀ one_le_two (by omega)
    have hn : (n : ℚ) ≤ 2 ^ 24 := by exact_mod_cast hn24
    have hprod : (n : ℚ) * 2 ^ e ≤ 2 ^ 24 * 2 ^ (103 : ℤ) := by gcongr
    exact iff_of_false (by linarith) (by linarith)
  · calc (2 : ℚ) ^ 128 ≤ n * 2 ^ (104 : ℤ) ↔ (2 : ℚ) ^ 24 * 2 ^ (104 : ℤ) ≤ n * 2 ^ (104 : ℤ) := by
          rw [← zpow_ofNat, ← zpow_ofNat, ← zpow_add₀ two_ne_zero]; norm_num
      _ ↔ 2 ^ 24 ≤ n := by rw [mul_le_mul_iff_left₀ hpos]; exact_mod_cast Iff.rfl
      _ ↔ ((2 : ℚ) ^ 24 - 1 / 2) * 2 ^ (104 : ℤ) ≤ v := by
          rw [two_pow_24_le_iff_of_roundsTo h, le_div_iff₀ hpos]
      _ ↔ (2 - 1 / 2 ^ 24) * 2 ^ 127 ≤ v := by norm_num
  · have he : (2 : ℚ) ^ (105 : ℤ) ≤ 2 ^ e := zpow_le_zpow_right₀ one_le_two (by omega)
    have hn : (2 : ℚ) ^ 23 ≤ n := by exact_mod_cast hn23 (by omega)
    have hv' := hle (by omega)
    have hprod : (2 : ℚ) ^ 23 * 2 ^ (105 : ℤ) ≤ n * 2 ^ e := by gcongr
    exact iff_of_true (by linarith) (by linarith)

end

/-- The rounding of a positive fraction, with its threshold of overflow. -/
theorem roundBinary32_of_pos {num den : ℕ} (hnum : num ≠ 0) (hden : 0 < den) :
    let v := (num : ℚ) / den
    ∃ n, RoundsTo n (v / 2 ^ binary32QuantumExp v) ∧
      roundBinary32 num den =
        if (2 : ℚ) ^ 128 ≤ n * 2 ^ binary32QuantumExp v then .overflow else .finite n (binary32QuantumExp v) := by
  intro v
  have hround := roundsTo_roundTiesToEven (scaleDown num den (binary32QuantumExp v)).1
    (scaleDown_den_pos hden num (binary32QuantumExp v))
  rw [scaleDown_div] at hround
  refine ⟨_, hround, ?_⟩
  simp only [roundBinary32, if_neg hnum, quantumExp_eq hnum hden, ge_iff_le, scaled_le_iff, Nat.cast_pow,
    Nat.cast_ofNat]
  rfl

/-! ### The pattern of a rounded magnitude (spec/30_encoding.md R43, R51) -/

/-- The number in the bits 30:0 of a magnitude below `2^128` is below that of infinity. -/
theorem magnitude_lt {n : ℕ} {e : ℤ} (hn : n ≤ 2 ^ 24) (hnormal : -149 < e → 2 ^ 23 ≤ n)
    (hlt : (n : ℚ) * 2 ^ e < 2 ^ 128) : (e + 149).toNat * 2 ^ 23 + n < 255 * 2 ^ 23 := by
  obtain hsmall | rfl | hlarge := lt_trichotomy e 104
  · omega
  · have hn24 : n < 2 ^ 24 := by
      by_contra hge
      have hge' : (2 : ℚ) ^ 24 ≤ n := by exact_mod_cast not_lt.mp hge
      have hprod : (2 : ℚ) ^ 24 * 2 ^ (104 : ℤ) ≤ n * 2 ^ (104 : ℤ) := by gcongr
      exact absurd hlt (by linarith)
    omega
  · have he : (2 : ℚ) ^ (105 : ℤ) ≤ 2 ^ e := zpow_le_zpow_right₀ one_le_two (by omega)
    have hn23 : (2 : ℚ) ^ 23 ≤ n := by exact_mod_cast hnormal (by omega)
    have hprod : (2 : ℚ) ^ 23 * 2 ^ (105 : ℤ) ≤ n * 2 ^ e := by gcongr
    exact absurd hlt (by linarith)

theorem floatSign_append (s : BitVec 1) (m : BitVec 31) : floatSign (s ++ m) = s := by
  have hm := m.isLt
  have hs := s.isLt
  apply BitVec.eq_of_toNat_eq
  rw [floatSign, toNat_slice, toNat_concat]
  omega

/-- The pattern of a magnitude stands for it: below `2^23` quanta as a subnormal, from there on as a normal value, of
the next exponent where it is `2^24` quanta. -/
theorem floatValue_magnitudeBits (s : BitVec 1) {n : ℕ} {e : ℤ} (he : -149 ≤ e) (hn : n ≤ 2 ^ 24)
    (hnormal : -149 < e → 2 ^ 23 ≤ n) (hlt : (n : ℚ) * 2 ^ e < 2 ^ 128) :
    floatValue (s ++ magnitudeBits n e) = .finite ((-1) ^ s.toNat * (n * 2 ^ e)) := by
  have hs := s.isLt
  have hmag := magnitude_lt hn hnormal hlt
  have hnum : (s ++ magnitudeBits n e).toNat = s.toNat * 2 ^ 31 + ((e + 149).toNat * 2 ^ 23 + n) := by
    rw [toNat_concat, magnitudeBits, BitVec.toNat_ofNat, Nat.mod_eq_of_lt (by omega)]
  generalize s ++ magnitudeBits n e = t at *
  obtain ⟨_, _, hsub, hnorm⟩ := floatValueOfPattern t
  have hsign : t.toNat / 2 ^ 31 = s.toNat := by omega
  rw [hsign] at hsub hnorm
  by_cases hsmall : n < 2 ^ 23
  · have he' : e = -149 := by omega
    have htf : t.toNat % 2 ^ 23 = n := by omega
    rw [hsub (by omega), htf, he', mul_assoc]
  · rw [hnorm (by omega) (by omega), mul_assoc]
    congr 2
    by_cases htop : n = 2 ^ 24
    · have htf : t.toNat % 2 ^ 23 = 0 := by omega
      have hte : ((t.toNat / 2 ^ 23 % 2 ^ 8 : ℕ) : ℤ) - 150 = e + 1 := by omega
      rw [htf, hte, htop, zpow_add_one₀ two_ne_zero]
      push_cast
      ring
    · have htf : 2 ^ 23 + t.toNat % 2 ^ 23 = n := by omega
      have hte : ((t.toNat / 2 ^ 23 % 2 ^ 8 : ℕ) : ℤ) - 150 = e := by omega
      rw [hte, ← htf, Nat.cast_add, Nat.cast_pow, Nat.cast_ofNat]

/-! ### The pattern of a literal (spec/30_encoding.md R51) -/

/-- The magnitude of a literal. -/
def Decimal.magnitude (d : Decimal) : ℚ := d.digits * (10 : ℚ) ^ d.exp10

/-- The sign bit of a literal's pattern. -/
def Decimal.signBit (d : Decimal) : BitVec 1 := if d.neg then 1#1 else 0#1

/-- The magnitude as the fraction that `bits32` rounds. -/
theorem Decimal.magnitude_eq_div (d : Decimal) :
    d.magnitude = ((d.digits * 10 ^ d.exp10.toNat : ℕ) : ℚ) / ((10 ^ (-d.exp10).toNat : ℕ) : ℚ) := by
  rw [Decimal.magnitude, zpow_eq_toNat_div (by norm_num)]
  push_cast
  ring

theorem Decimal.signBit_eq_one_iff (d : Decimal) : d.signBit = 1 ↔ d.neg = true := by
  cases h : d.neg <;> simp [Decimal.signBit, h]

theorem bits32_of_zero {d : Decimal} (h : d.digits = 0) : bits32 d = some (d.signBit ++ magnitudeBits 0 (-149)) := by
  simp [bits32, h, roundBinary32, Decimal.signBit]

theorem Decimal.magnitude_pos {d : Decimal} (h : d.digits ≠ 0) : 0 < d.magnitude := by
  unfold Decimal.magnitude
  have hd : (0 : ℚ) < d.digits := by exact_mod_cast Nat.pos_of_ne_zero h
  positivity

theorem Decimal.magnitude_of_zero {d : Decimal} (h : d.digits = 0) : d.magnitude = 0 := by
  simp [Decimal.magnitude, h]

/-- `bits32` of a literal that is not zero: an error from the threshold on, and below it the rounded magnitude. -/
theorem bits32_of_ne_zero {d : Decimal} (h : d.digits ≠ 0) :
    let v := d.magnitude
    ((2 - 1 / 2 ^ 24) * 2 ^ 127 ≤ v ∧ bits32 d = none) ∨
    (v < (2 - 1 / 2 ^ 24) * 2 ^ 127 ∧ ∃ n, RoundsTo n (v / 2 ^ binary32QuantumExp v) ∧
      (n : ℚ) * 2 ^ binary32QuantumExp v < 2 ^ 128 ∧
      bits32 d = some (d.signBit ++ magnitudeBits n (binary32QuantumExp v))) := by
  have hnum : d.digits * 10 ^ d.exp10.toNat ≠ 0 := Nat.mul_ne_zero h (by positivity)
  obtain ⟨n, hround, hb⟩ := roundBinary32_of_pos hnum (den := 10 ^ (-d.exp10).toNat) (by positivity)
  rw [← Decimal.magnitude_eq_div] at hround hb
  have hthreshold := overflow_iff (Decimal.magnitude_pos h) hround
  by_cases hover : (2 : ℚ) ^ 128 ≤ n * 2 ^ binary32QuantumExp d.magnitude
  · rw [if_pos hover] at hb
    exact .inl ⟨hthreshold.mp hover, by simp only [bits32, hb]⟩
  · rw [if_neg hover] at hb
    exact .inr ⟨not_le.mp (mt hthreshold.mpr hover), n, hround, not_le.mp hover,
      by simp only [bits32, hb, Decimal.signBit]⟩

theorem bits32_eq_none_iff (d : Decimal) : bits32 d = none ↔ (2 - 1 / 2 ^ 24) * 2 ^ 127 ≤ d.magnitude := by
  by_cases hd : d.digits = 0
  · rw [bits32_of_zero hd, Decimal.magnitude_of_zero hd]
    exact iff_of_false (by simp) (by norm_num)
  · obtain ⟨hv, hb⟩ | ⟨hv, _, _, _, hb⟩ := bits32_of_ne_zero hd
    · exact iff_of_true hb hv
    · exact iff_of_false (by simp [hb]) (not_le.mpr hv)

theorem floatSign_of_bits32 {d : Decimal} {t : Operand} (h : bits32 d = some t) : floatSign t = d.signBit := by
  by_cases hd : d.digits = 0
  · rw [bits32_of_zero hd] at h
    cases h
    exact floatSign_append _ _
  · obtain ⟨_, hb⟩ | ⟨_, _, _, _, hb⟩ := bits32_of_ne_zero hd <;> rw [hb] at h <;> cases h
    exact floatSign_append _ _

theorem floatValue_of_bits32_zero {d : Decimal} {t : Operand} (hd : d.digits = 0) (h : bits32 d = some t) :
    floatValue t = .finite 0 := by
  rw [bits32_of_zero hd] at h
  cases h
  rw [floatValue_magnitudeBits d.signBit le_rfl (by omega) (by omega) (by norm_num)]
  simp

/-- The pattern of a literal that is not zero stands for its magnitude rounded to quanta, under its sign. -/
theorem floatValue_of_bits32 {d : Decimal} {t : Operand} (hd : d.digits ≠ 0) (h : bits32 d = some t) :
    let v := d.magnitude
    ∃ n, RoundsTo n (v / 2 ^ binary32QuantumExp v) ∧
      floatValue t = .finite ((-1) ^ d.signBit.toNat * (n * 2 ^ binary32QuantumExp v)) := by
  obtain ⟨_, hb⟩ | ⟨_, n, hround, hlt, hb⟩ := bits32_of_ne_zero hd <;> rw [hb] at h <;> cases h
  exact ⟨n, hround, floatValue_magnitudeBits d.signBit (binary32QuantumExp_ge _) (le_two_pow_24_of_roundsTo hround)
    (fun he => two_pow_23_le_of_roundsTo (Decimal.magnitude_pos hd) he hround) hlt⟩

theorem abs_signed (s : BitVec 1) {x : ℚ} (hx : 0 ≤ x) : |(-1) ^ s.toNat * x| = x := by
  rw [abs_mul, abs_pow, abs_neg, abs_one, one_pow, one_mul, abs_of_nonneg hx]

/-- Settles O57: the zero literals, and the rounded magnitude of the others. -/
theorem literalGivesNearestBinary32 : Obligations.LiteralGivesNearestBinary32 := by
  intro d
  refine ⟨bits32_eq_none_iff d, fun t ht => ⟨by rw [floatSign_of_bits32 ht, Decimal.signBit_eq_one_iff], ?_⟩⟩
  by_cases hd : d.digits = 0
  · exact ⟨0, floatValue_of_bits32_zero hd ht, fun _ => rfl, fun hv => absurd (Decimal.magnitude_of_zero hd) hv⟩
  · obtain ⟨n, hround, hq⟩ := floatValue_of_bits32 hd ht
    exact ⟨_, hq, fun hv => absurd hv (Decimal.magnitude_pos hd).ne',
      fun _ => ⟨n, hround, abs_signed _ (by positivity)⟩⟩

end Sys2Proof.Machine
end

section
/-! PROOFS. The setters (spec/40_encoder.md R52 to R54): the words and the effects of SETID and SETHUM, what a setter
leaves unchanged, and a setter run again. -/

namespace Sys2Proof.Machine

/-! ### A command word and the acceptance checks (spec/30_encoding.md R50, spec/60_exceptions.md R71) -/

/-- A word with the numbers of an illegal one faults a ready core. -/
theorem faultsAsIllegal_wordOf {op opd : ℕ} (hop : op < 2 ^ 8) (hopd : opd < 2 ^ 32) (h : IllegalNumbers op opd) :
    FaultsAsIllegal (wordOf op opd) := by
  have hnum : (wordOf op opd).toNat = op * 2 ^ 32 + opd := by
    rw [wordOf, BitVec.toNat_ofNat]
    omega
  have hdiv : (wordOf op opd).toNat / 2 ^ 32 = op := by omega
  have hmod : (wordOf op opd).toNat % 2 ^ 32 = opd := by omega
  obtain ⟨e, he⟩ := (decode_error_iff (wordOf op opd)).mpr (by rwa [hdiv, hmod])
  exact faultsAsIllegal_of_decode_error he

theorem exec_of_ready (i : Instr) {s : State} (hf : s.fault = none) (hb : s.busy = false) :
    exec i s = .next (effectOf i s) := by
  rw [exec_eq, accept_ready _ _ _ hf hb]

/-- Every command runs as its effect under the acceptance checks. -/
theorem runsAs_effectOf (i : Instr) : RunsAs i (effectOf i) := by
  intro s
  refine ⟨fun hf hb => exec_of_ready i hf hb, fun hf hb => ?busy, fun r hf => ?faulted⟩
  case busy =>
    rw [exec_eq, accept_busy _ _ _ hf hb, raiseFault_busy _ _ _ hb]
    rfl
  case faulted => rw [exec_eq, accept_faulted _ _ _ r hf]

/-! ### SETID and SETHUM (spec/40_encoder.md R53, R54) -/

/-- Settles O7: SETID's effect is the write of `DEVID`. -/
theorem setidStoresId : Obligations.SetidStoresId := by
  refine ⟨fun id => ?_, fun opd hlo hhi => ?_, fun id => runsAs_effectOf (.setid id)⟩
  · rw [← encode_setid_eq, decode_encode]
  · exact faultsAsIllegal_wordOf (by norm_num) hhi (.inr (.inr (.inl ⟨.inl rfl, hlo⟩)))

theorem clampHumidity_eq_min (h : Byte) : clampHumidity h = BitVec.ofNat 8 (min h.toNat 100) := by
  unfold clampHumidity
  split
  · rw [Nat.min_eq_right (by omega)]
  · rw [Nat.min_eq_left (by omega), BitVec.ofNat_toNat, BitVec.setWidth_eq]

/-- Settles O8: SETHUM's effect is the write of the clamped `HUM`. -/
theorem sethumClampsTo100 : Obligations.SethumClampsTo100 := by
  refine ⟨fun h => ?_, fun opd hlo hhi => ?_, fun h => ?_⟩
  · rw [← encode_sethum_eq, decode_encode]
  · exact faultsAsIllegal_wordOf (by norm_num) hhi (.inr (.inr (.inl ⟨.inr rfl, hlo⟩)))
  · rw [← clampHumidity_eq_min]
    exact runsAs_effectOf (.sethum h)

/-! ### What a setter leaves (spec/40_encoder.md R52) -/

/-- The data fields that the effect of a setter leaves, and the sequencer, which it leaves whole. -/
theorem effectOf_frame_of_ne_send {i : Instr} (s : State) (h : i ≠ .send) :
    ((∀ id, i ≠ .setid id) → (effectOf i s).devid = s.devid) ∧
    ((∀ v, i ≠ .sethum v) → (effectOf i s).hum = s.hum) ∧
    ((∀ p, i ≠ .settemp p) → (effectOf i s).tempw = s.tempw ∧ (effectOf i s).draws = s.draws) ∧
    (effectOf i s).rep = s.rep ∧ (effectOf i s).seg = s.seg ∧ (effectOf i s).cnt = s.cnt ∧
    (effectOf i s).frameL = s.frameL := by
  cases i with
  | send => exact absurd rfl h
  | setid | sethum | settemp => simp [effectOf]

/-- Settles O21: by the acceptance checks, a faulted core does nothing, a busy one takes the fault, and a ready one
runs the setter's effect. -/
theorem settersFrame : Obligations.SettersFrame := by
  intro i s t hi ht
  rw [exec_eq] at ht
  cases ht
  obtain ⟨r, hf, e⟩ | ⟨hf, hb, e⟩ | ⟨hf, hb, e⟩ := accept_cases (encode i) (effectOf i) s <;> rw [e]
  · simp
  · simp [hf, hb]
  · obtain ⟨hdevid, hhum, htemp, hseq⟩ := effectOf_frame_of_ne_send s hi
    simpa [hf, hb, effectOf_busy_of_ne_send s hi, effectOf_pinLevel_of_ne_send s hi, hseq] using
      ⟨hdevid, hhum, fun h => (htemp h).1, fun h => (htemp h).2⟩

/-! ### A setter run again (spec/40_encoder.md R52) -/

/-- SETTEMP's write does not depend on the temperature word that it overwrites. -/
theorem writeTemperature_setTempw (t : Operand) (w : TempWord) (s : State) :
    writeTemperature t (setTempw w s) = writeTemperature t s := by
  unfold writeTemperature
  rw [setTempw_cfg]
  split <;> rfl

/-- Of a first SETTEMP, a second one sees the draw counter alone. -/
theorem writeTemperature_writeTemperature (a b : Operand) (s : State) :
    writeTemperature b (writeTemperature a s) =
      writeTemperature b { s with draws := (writeTemperature a s).draws } := by
  obtain ⟨p, _, e⟩ | ⟨_, e⟩ := writeTemperature_cases a s <;> rw [e]
  · exact writeTemperature_setTempw b (packTemp p.1 p.2) s
  · exact writeTemperature_setTempw b _ { s with draws := s.draws + 1 }

/-- A setter run on what another setter left of a ready core. -/
theorem exec_exec_of_ready {a b : Instr} {s t : State} (ha : a ≠ .send) (hf : s.fault = none) (hb : s.busy = false)
    (ht : exec a s = .next t) : t = effectOf a s ∧ exec b t = .next (effectOf b (effectOf a s)) := by
  rw [exec_of_ready a hf hb] at ht
  cases ht
  exact ⟨rfl, exec_of_ready b (by rw [effectOf_fault, hf]) (by rw [effectOf_busy_of_ne_send s ha, hb])⟩

/-- Settles O22: a setter's write does not depend on the field that it overwrites. -/
theorem latestSetterCounts : Obligations.LatestSetterCounts := by
  intro s t hf hb
  refine ⟨fun a b ht => ?setid, fun a b ht => ?sethum, fun a b ht => ?settemp⟩
  case setid =>
    rw [(exec_exec_of_ready (by simp) hf hb ht).2, exec_of_ready _ hf hb]
    rfl
  case sethum =>
    rw [(exec_exec_of_ready (by simp) hf hb ht).2, exec_of_ready _ hf hb]
    rfl
  case settemp =>
    obtain ⟨rfl, e⟩ := exec_exec_of_ready (b := .settemp b) (by simp) hf hb ht
    calc exec (.settemp b) (writeTemperature a s) = .next (writeTemperature b (writeTemperature a s)) := e
      _ = .next (writeTemperature b { s with draws := (writeTemperature a s).draws }) := by
          rw [writeTemperature_writeTemperature]
      _ = exec (.settemp b) { s with draws := (writeTemperature a s).draws } :=
          (exec_of_ready (s := { s with draws := (writeTemperature a s).draws }) (.settemp b) hf hb).symm

end Sys2Proof.Machine
end

section
/-! PROOFS. SETTEMP (spec/40_encoder.md R55 to R60): the sign flag, the tenths in both product modes, the word that is
stored, and what it decodes to. -/

namespace Sys2Proof.Machine

/-! ### The sign, the significand and the value of a finite pattern (spec/30_encoding.md R43) -/

theorem floatSig_lt (t : Operand) : floatSig t < 2 ^ 24 := by
  have hf := (floatFrac t).isLt
  unfold floatSig
  split <;> omega

/-- The significand is zero on `+0.0` and `-0.0` alone. -/
theorem floatSig_eq_zero_iff (t : Operand) : floatSig t = 0 ↔ t.toNat % 2 ^ 31 = 0 := by
  by_cases h : t.toNat / 2 ^ 23 % 2 ^ 8 = 0
  · rw [floatSig_of_exp_zero h]
    omega
  · rw [floatSig_of_exp_ne_zero h]
    omega

theorem floatSign_eq_one_iff (t : Operand) : floatSign t = 1 ↔ 2 ^ 31 ≤ t.toNat := by
  have ht := t.isLt
  rw [← BitVec.toNat_inj, floatSign_toNat, show (1 : BitVec 1).toNat = 1 from rfl]
  omega

theorem floatFinite_of_floatValue {t : Operand} {q : ℚ} (h : floatValue t = .finite q) : floatFinite t = true := by
  unfold floatValue at h
  split_ifs at h with hfin
  exact hfin

theorem eq_of_floatValue {t : Operand} {q : ℚ} (h : floatValue t = .finite q) :
    q = (-1) ^ (floatSign t).toNat * (floatSig t * 2 ^ floatE2 t) := by
  rw [floatValue, if_pos (floatFinite_of_floatValue h)] at h
  injection h with h
  rw [← h, mul_assoc]

theorem abs_of_floatValue {t : Operand} {q : ℚ} (h : floatValue t = .finite q) :
    |q| = floatSig t * 2 ^ floatE2 t := by
  rw [eq_of_floatValue h]
  exact abs_signed _ (by positivity)

/-! ### The sign flag (spec/40_encoder.md R56) -/

theorem negFlag_eq_one_iff (t : Operand) : negFlag t = 1 ↔ floatSign t = 1 ∧ floatSig t ≠ 0 := by
  have hbits : t.extractLsb' 0 31 = 0 ↔ floatSig t = 0 := by
    rw [floatSig_eq_zero_iff, ← BitVec.toNat_inj, toNat_slice, pow_zero, Nat.div_one]
    rfl
  simp only [negFlag, ne_eq, hbits]
  split_ifs with h
  · exact iff_of_true rfl h
  · exact iff_of_false (by decide) h

theorem negFlag_eq_one_iff_toNat (t : Operand) : negFlag t = 1 ↔ 2 ^ 31 < t.toNat := by
  have ht := t.isLt
  rw [negFlag_eq_one_iff, floatSign_eq_one_iff, ne_eq, floatSig_eq_zero_iff]
  omega

theorem negFlag_eq_zero_iff (t : Operand) : negFlag t = 0 ↔ negFlag t ≠ 1 := by
  obtain h | h := BitVec.eq_zero_or_eq_one (negFlag t) <;> simp [h]

theorem negFlag_eq_one_iff_neg {t : Operand} {q : ℚ} (h : floatValue t = .finite q) : negFlag t = 1 ↔ q < 0 := by
  have hmag : (0 : ℚ) ≤ floatSig t * 2 ^ floatE2 t := by positivity
  have hpos : 0 < (floatSig t : ℚ) * 2 ^ floatE2 t ↔ floatSig t ≠ 0 := by
    rw [mul_pos_iff_of_pos_right (by positivity), Nat.cast_pos, Nat.pos_iff_ne_zero]
  rw [negFlag_eq_one_iff, ← hpos, eq_of_floatValue h]
  obtain hs | hs := BitVec.eq_zero_or_eq_one (floatSign t)
  · simpa [hs] using hmag
  · simp [hs]

/-- Settles O12: the flag is the sign bit of a pattern whose significand is not zero. -/
theorem negFlagMeansBelowZero : Obligations.NegFlagMeansBelowZero := fun t =>
  ⟨negFlag_eq_one_iff_toNat t, by rw [negFlag_eq_zero_iff, ne_eq, negFlag_eq_one_iff_toNat, not_lt],
    fun _ h => negFlag_eq_one_iff_neg h⟩

/-! ### The tenths under EXACT (spec/40_encoder.md R57) -/

/-- `floorScaled` is the floor of the scaled number. -/
theorem floorScaled_eq (n : ℕ) (e : ℤ) : floorScaled n e = ⌊(n : ℚ) * 2 ^ e⌋₊ := by
  have hfloor : floorScaled n e = n * 2 ^ e.toNat / 2 ^ (-e).toNat := by
    unfold floorScaled
    split_ifs with he
    · rw [show (-e).toNat = 0 by omega, Nat.shiftLeft_eq, pow_zero, Nat.div_one]
    · rw [show e.toNat = 0 by omega, Nat.shiftRight_eq_div_pow, pow_zero, mul_one]
  rw [hfloor, zpow_eq_toNat_div two_ne_zero, ← mul_div_assoc, ← Nat.floor_div_eq_div (K := ℚ)]
  push_cast
  rfl

/-- The product that both modes compute: ten times the magnitude. -/
theorem ten_mul_sig_eq {t : Operand} {q : ℚ} (h : floatValue t = .finite q) :
    ((10 * floatSig t : ℕ) : ℚ) * 2 ^ floatE2 t = |q| * 10 := by
  rw [abs_of_floatValue h]
  push_cast
  ring

theorem tenthsExact_eq {t : Operand} {q : ℚ} (h : floatValue t = .finite q) : tenthsExact t = ⌊|q| * 10⌋₊ := by
  rw [tenthsExact, floorScaled_eq, ten_mul_sig_eq h]

/-- Settles O13: the scaled significand is ten times the magnitude. -/
theorem exactTenthsAreFloor : Obligations.ExactTenthsAreFloor := by
  intro t q h
  rw [tenthsExact_eq h]
  exact Int.natCast_floor_eq_floor (by positivity)

/-! ### The tenths under BINARY32_RNE (spec/40_encoder.md R58) -/

/-- Settles O14: the rounding of a quotient is the one that binary32 patterns are made with. -/
theorem roundTiesToEvenIsNearest : Obligations.RoundTiesToEvenIsNearest := fun num _ hden =>
  roundsTo_roundTiesToEven num hden

theorem product_den_pos (t : Operand) : 0 < (product t).2 := scaleDown_den_pos one_pos _ _

theorem product_div {t : Operand} {q : ℚ} (h : floatValue t = .finite q) :
    ((product t).1 : ℚ) / (product t).2 = |q| * 10 := by
  rw [← ten_mul_sig_eq h, product, scaleDown_div, Nat.cast_one, div_one, zpow_neg, div_inv_eq_mul]

theorem product_num_eq_zero_iff {t : Operand} {q : ℚ} (h : floatValue t = .finite q) :
    (product t).1 = 0 ↔ |q| * 10 = 0 := by
  have hden : ((product t).2 : ℚ) ≠ 0 := by exact_mod_cast (product_den_pos t).ne'
  rw [← product_div h, div_eq_zero_iff, or_iff_left hden, Nat.cast_eq_zero]

theorem tenthsRne_of_zero {t : Operand} {q : ℚ} (h : floatValue t = .finite q) (hp : |q| * 10 = 0) :
    tenthsRne t = some 0 := by
  simp [tenthsRne, roundBinary32, (product_num_eq_zero_iff h).mpr hp, floorScaled]

/-- The tenths of a product that is not zero: overflow from `2^128` on, and below it the rounded product truncated. -/
theorem tenthsRne_of_ne_zero {t : Operand} {q : ℚ} (h : floatValue t = .finite q) (hp : |q| * 10 ≠ 0) :
    let p := |q| * 10
    ∃ n, RoundsTo n (p / 2 ^ binary32QuantumExp p) ∧
      tenthsRne t = if (2 : ℚ) ^ 128 ≤ n * 2 ^ binary32QuantumExp p then none
        else some ⌊(n : ℚ) * 2 ^ binary32QuantumExp p⌋₊ := by
  obtain ⟨n, hround, hr⟩ := roundBinary32_of_pos (mt (product_num_eq_zero_iff h).mp hp) (product_den_pos t)
  rw [product_div h] at hround hr
  refine ⟨n, hround, ?_⟩
  rw [tenthsRne, hr]
  split_ifs with hover
  · rfl
  · exact congrArg some (floorScaled_eq n _)

/-- Settles O15: the model's quantum is the one that R58 names. -/
theorem rneTenthsRoundTheProduct : Obligations.RneTenthsRoundTheProduct := by
  intro t q h p quantum
  refine ⟨tenthsRne_of_zero h, fun hp => ?_⟩
  obtain ⟨n, hround, hn⟩ := tenthsRne_of_ne_zero h hp
  exact ⟨n, hround, fun hover => hn.trans (if_pos hover), fun hlt => hn.trans (if_neg (not_le.mpr hlt))⟩

/-- Settles O16: the rounded product reaches `2^128` exactly from the threshold on. -/
theorem rneOverflowThreshold : Obligations.RneOverflowThreshold := by
  intro t q h
  by_cases hp : |q| * 10 = 0
  · rw [tenthsRne_of_zero h hp, hp]
    exact iff_of_false (by simp) (by norm_num)
  · obtain ⟨n, hround, hn⟩ := tenthsRne_of_ne_zero h hp
    have hpos : 0 < |q| * 10 := lt_of_le_of_ne (by positivity) (Ne.symm hp)
    rw [hn, ← overflow_iff hpos hround]
    split_ifs with hover <;> simp [hover]

/-! ### The word that is stored (spec/40_encoder.md R55, R59; spec/30_encoding.md R44) -/

theorem packTemp_eq_ofNat (sign : BitVec 1) (mag : BitVec 11) :
    packTemp sign mag = BitVec.ofNat 16 (sign.toNat * 2 ^ 15 + mag.toNat * 2 ^ 4) := by
  rw [← packTemp_toNat, BitVec.ofNat_toNat, BitVec.setWidth_eq]

theorem encodeTemperature_of_tenths {t : Operand} {mode : TempProduct} {n : ℕ} (hfin : floatFinite t = true)
    (hn : tenths mode t = some n) : encodeTemperature mode t = some (negFlag t, BitVec.ofNat 11 n) := by
  rw [encodeTemperature, if_pos hfin, hn]
  rfl

theorem encodeTemperature_eq_none {t : Operand} {mode : TempProduct}
    (h : floatFinite t ≠ true ∨ tenths mode t = none) : encodeTemperature mode t = none := by
  unfold encodeTemperature
  split_ifs with hfin
  · rw [h.resolve_left (not_not_intro hfin)]
    rfl
  · rfl

theorem writeTemperature_of_some {t : Operand} {s : State} {p : BitVec 1 × BitVec 11}
    (h : encodeTemperature s.cfg.tempProduct t = some p) : writeTemperature t s = setTempw (packTemp p.1 p.2) s := by
  simp only [writeTemperature, h]

theorem writeTemperature_of_none {t : Operand} {s : State} (h : encodeTemperature s.cfg.tempProduct t = none) :
    writeTemperature t s = drawTempw s := by
  simp only [writeTemperature, h]

/-- Settles O9: SETTEMP's effect is `writeTemperature`, which draws where no rule gives the sign and the magnitude. -/
theorem settempEncodesTemperature : Obligations.SettempEncodesTemperature := by
  refine ⟨fun t => by rw [← encode_settemp_eq, decode_encode], fun t =>
    ⟨writeTemperature t, runsAs_effectOf (.settemp t), fun s => ⟨fun h => ?drawn, fun hfin n hn => ?computed⟩⟩⟩
  case drawn =>
    have henc := encodeTemperature_eq_none (h.imp_left fun hexp hfin => (floatFinite_iff t).mp hfin hexp)
    refine ⟨_, _, (Config.drawSign s.draws).isLt, (Config.drawMagnitude s.draws).isLt, ?_⟩
    rw [writeTemperature_of_none henc, ← packTemp_eq_ofNat]
    rfl
  case computed =>
    rw [writeTemperature_of_some (encodeTemperature_of_tenths ((floatFinite_iff t).mpr hfin) hn), packTemp_eq_ofNat,
      BitVec.toNat_ofNat]
    rfl

/-- The EXACT encoding of a finite operand: never an overflow. -/
theorem encodeTemperature_exact {t : Operand} {q : ℚ} (h : floatValue t = .finite q) :
    encodeTemperature .exact t = some (negFlag t, BitVec.ofNat 11 (tenthsExact t)) :=
  encodeTemperature_of_tenths (floatFinite_of_floatValue h) rfl

/-- Settles O10: the fields of the packed word are the sign flag and the tenths modulo 2048. -/
theorem exactModeTruncatesMagnitude : Obligations.ExactModeTruncatesMagnitude := by
  intro t q s h hmode hf hb
  have henc := encodeTemperature_exact h
  rw [← hmode] at henc
  refine ⟨_, (exec_of_ready (.settemp t) hf hb).trans (congrArg _ (writeTemperature_of_some henc)), ?_, ?_, ?_⟩
  · rw [setTempw_tempw, tempMag_packTemp, BitVec.toNat_ofNat, ← exactTenthsAreFloor t q h]
    rfl
  · rw [setTempw_tempw, tempSign_packTemp, negFlag_eq_one_iff_neg h]
  · rw [setTempw_tempw, tempLow_packTemp]

/-! ### Large magnitudes under EXACT (spec/40_encoder.md R55, R57; log 26) -/

theorem floatValue_2049 : floatValue 0x45001000 = .finite 2049 := by
  rw [floatValue_of_finite (by decide), show floatSig 0x45001000 = 8392704 by decide,
    show floatE2 0x45001000 = -12 by decide, show (0x45001000 : Operand).toNat / 2 ^ 31 = 0 by decide]
  norm_num

/-- Refutes O17: 2049.0 has 20490 tenths, so it is stored with the magnitude 20490 mod 2048 = 10. -/
theorem not_exactMagnitudeZeroFromTwoPow11 : ¬ Obligations.ExactMagnitudeZeroFromTwoPow11 := by
  intro h
  exact absurd (h 0x45001000 2049 floatValue_2049 (by norm_num)) (by decide)

/-- From `2^33` on the significand is scaled by at least `2^10`. -/
theorem ten_le_floatE2 {t : Operand} {q : ℚ} (h : floatValue t = .finite q) (hq : 2 ^ 33 ≤ |q|) : 10 ≤ floatE2 t := by
  by_contra hlt
  have hsig : (floatSig t : ℚ) < 2 ^ 24 := by exact_mod_cast floatSig_lt t
  have he : (2 : ℚ) ^ floatE2 t ≤ 2 ^ (9 : ℤ) := zpow_le_zpow_right₀ one_le_two (by omega)
  have hbelow : |q| < 2 ^ 33 := by
    calc |q| = floatSig t * 2 ^ floatE2 t := abs_of_floatValue h
      _ < 2 ^ 24 * 2 ^ floatE2 t := by gcongr
      _ ≤ 2 ^ 24 * 2 ^ (9 : ℤ) := by gcongr
      _ = 2 ^ 33 := by norm_num
  exact absurd hq (not_le.mpr hbelow)

theorem two_pow_11_dvd_tenthsExact {t : Operand} (h : 10 ≤ floatE2 t) : 2 ^ 11 ∣ tenthsExact t := by
  have hpow : 2 ^ 10 ∣ 2 ^ (floatE2 t).toNat := pow_dvd_pow 2 (by omega)
  rw [tenthsExact, floorScaled, if_pos (by omega), Nat.shiftLeft_eq]
  exact Nat.mul_dvd_mul (a := 2) (c := 2 ^ 10) (by omega) hpow

/-- Settles O18: ten times the significand is even, and the rest of `2^11` is in the scaling. -/
theorem exactMagnitudeZeroFromTwoPow33 : Obligations.ExactMagnitudeZeroFromTwoPow33 := by
  intro t q h hq
  have hzero : BitVec.ofNat 11 (tenthsExact t) = 0 := by
    apply BitVec.eq_of_toNat_eq
    rw [BitVec.toNat_ofNat, Nat.mod_eq_zero_of_dvd (two_pow_11_dvd_tenthsExact (ten_le_floatE2 h hq))]
    rfl
  rw [encodeTemperature_exact h, hzero]

/-! ### Decoding in the nominal range (spec/40_encoder.md R60) -/

/-- Rounding to nearest does not cross an integer. -/
theorem le_of_roundsTo {n m : ℕ} {x : ℚ} (h : RoundsTo n x) (hm : (m : ℚ) ≤ x) : m ≤ n := by
  obtain ⟨_, hhi, _⟩ := h
  have hlt : (m : ℚ) < (n + 1 : ℕ) := by push_cast; linarith
  exact Nat.lt_succ_iff.mp (by exact_mod_cast hlt)

/-- The quantum of a product in the nominal range is at most `2^-13`. -/
theorem binary32QuantumExp_le {p : ℚ} (hpos : 0 < p) (hp : p ≤ 2047) : binary32QuantumExp p ≤ -13 := by
  have hlt : p < ((2 : ℕ) : ℚ) ^ (11 : ℤ) := by norm_num; linarith
  have hlog := (Int.lt_zpow_iff_log_lt one_lt_two hpos).mp hlt
  unfold binary32QuantumExp
  omega

/-- Rounding to quanta adds at most half a quantum. -/
theorem rounded_le {p quantum : ℚ} {n : ℕ} (hquantum : 0 < quantum) (h : RoundsTo n (p / quantum)) :
    n * quantum ≤ p + quantum / 2 := by
  obtain ⟨hlo, _⟩ := h
  rw [le_div_iff₀ hquantum] at hlo
  linarith

/-- Where the quantum divides 1, the integer part of a number is a number of quanta, so rounding keeps it. -/
theorem floor_le_floor_rounded {p quantum : ℚ} {n k : ℕ} (hp : 0 ≤ p) (hquantum : 0 < quantum)
    (hunit : k * quantum = 1) (h : RoundsTo n (p / quantum)) : ⌊p⌋₊ ≤ ⌊(n : ℚ) * quantum⌋₊ := by
  have hquanta : ((⌊p⌋₊ * k : ℕ) : ℚ) * quantum = ⌊p⌋₊ := by rw [Nat.cast_mul, mul_assoc, hunit, mul_one]
  have hn : ⌊p⌋₊ * k ≤ n := by
    refine le_of_roundsTo h ((le_div_iff₀ hquantum).mpr ?_)
    rw [hquanta]
    exact Nat.floor_le hp
  refine Nat.le_floor ?_
  rw [← hquanta]
  gcongr

/-- The rounded product of the nominal range, truncated, is off by less than one. -/
theorem abs_floor_rounded_sub_lt {p : ℚ} {n : ℕ} (hpos : 0 < p) (hp : p ≤ 2047)
    (h : RoundsTo n (p / 2 ^ binary32QuantumExp p)) : |(⌊(n : ℚ) * 2 ^ binary32QuantumExp p⌋₊ : ℚ) - p| < 1 := by
  have hexp := binary32QuantumExp_le hpos hp
  generalize binary32QuantumExp p = e at *
  have hquantum : (0 : ℚ) < 2 ^ e := by positivity
  have hone : (2 : ℚ) ^ e ≤ 1 := zpow_le_one_of_nonpos₀ one_le_two (by omega)
  have hunit : ((2 ^ (-e).toNat : ℕ) : ℚ) * 2 ^ e = 1 := by
    rw [zpow_eq_toNat_div two_ne_zero, show e.toNat = 0 by omega]
    simp
  have hbelow : (⌊p⌋₊ : ℚ) ≤ ⌊(n : ℚ) * 2 ^ e⌋₊ := by exact_mod_cast floor_le_floor_rounded hpos.le hquantum hunit h
  have habove := rounded_le hquantum h
  have hfloor : (⌊(n : ℚ) * 2 ^ e⌋₊ : ℚ) ≤ n * 2 ^ e := Nat.floor_le (by positivity)
  rw [abs_sub_lt_iff]
  constructor <;> linarith [Nat.lt_floor_add_one p]

/-- In the nominal range the tenths are within one of ten times the magnitude, in both product modes. -/
theorem tenths_near (mode : TempProduct) {t : Operand} {q : ℚ} (h : floatValue t = .finite q)
    (hq : |q| ≤ 2047 / 10) : ∃ n, tenths mode t = some n ∧ |(n : ℚ) - |q| * 10| < 1 := by
  have hp : 0 ≤ |q| * 10 := by positivity
  cases mode with
  | exact =>
    have hlo := Nat.floor_le hp
    have hhi := Nat.lt_floor_add_one (|q| * 10)
    refine ⟨_, rfl, ?_⟩
    rw [tenthsExact_eq h, abs_sub_lt_iff]
    constructor <;> linarith
  | binary32Rne =>
    by_cases hzero : |q| * 10 = 0
    · exact ⟨0, tenthsRne_of_zero h hzero, by simp [hzero]⟩
    · have hpos := lt_of_le_of_ne hp (Ne.symm hzero)
      obtain ⟨n, hround, hn⟩ := tenthsRne_of_ne_zero h hzero
      rw [if_neg (mt (overflow_iff hpos hround).mp (not_le.mpr (by linarith)))] at hn
      exact ⟨_, hn, abs_floor_rounded_sub_lt hpos (by linarith) hround⟩

/-- The sign flag and the magnitude give the value. -/
theorem eq_negFlag_mul_abs {t : Operand} {q : ℚ} (h : floatValue t = .finite q) :
    q = (if negFlag t = 1 then -1 else 1) * |q| := by
  simp only [negFlag_eq_one_iff_neg h]
  split_ifs with hneg
  · rw [abs_of_neg hneg]; ring
  · rw [abs_of_nonneg (not_lt.mp hneg)]; ring

/-- Settles O19: the sign is exact, and the tenths, which fit the magnitude field, are within one. -/
theorem decodedTemperatureWithinTenth : Obligations.DecodedTemperatureWithinTenth := by
  intro mode t q h hq
  obtain ⟨n, hn, hnear⟩ := tenths_near mode h hq
  refine ⟨_, _, encodeTemperature_of_tenths (floatFinite_of_floatValue h) hn, ?_⟩
  have hfits : n < 2 ^ 11 := by
    have hn' : (n : ℚ) < (2 ^ 11 : ℕ) := by push_cast; linarith [(abs_sub_lt_iff.mp hnear).1]
    exact_mod_cast hn'
  rw [decodedTemperature, tempSign_packTemp, tempMag_packTemp, BitVec.toNat_ofNat, Nat.mod_eq_of_lt hfits,
    eq_negFlag_mul_abs h]
  generalize hsign : (if negFlag t = 1 then (-1 : ℚ) else 1) = sign
  have habs : |sign| = 1 := by rw [← hsign]; split_ifs <;> simp
  have hdiff : sign * n / 10 - sign * |q| = sign * ((n - |q| * 10) / 10) := by ring
  rw [hdiff, abs_mul, habs, one_mul, abs_div, abs_of_pos (show (0 : ℚ) < 10 by norm_num)]
  linarith

end Sys2Proof.Machine
end

section
/-! PROOFS. The waveform of a SEND as a list of segments (spec/41_transmitter.md R62, R63, R65, R66): its frames, its
duration, its primitive trace, the merged waveform, and the waveform a microsecond later. -/

namespace Sys2Proof.Machine

/-! ### Frames back to back (spec/41_transmitter.md R62) -/

theorem wave_length (pl : Nat) (f : Frame) (n : Nat) : (wave pl f n).length = 105 * n := by
  induction n with
  | zero => rfl
  | succ n ih => rw [wave_succ, List.length_append, segs_length, ih]; omega

theorem wave_get (pl : Nat) (f : Frame) (k : Fin 105) {r n : Nat} (h : r < n) :
    (wave pl f n)[105 * r + k.val]? = some (segmentAt pl f k) := by
  induction n generalizing r with
  | zero => omega
  | succ n ih =>
    rw [wave_succ]
    cases r with
    | zero =>
      rw [List.getElem?_append_left (by rw [segs_length]; omega), Nat.mul_zero, Nat.zero_add, segs_get pl f _ k.isLt]
    | succ r =>
      rw [List.getElem?_append_right (by rw [segs_length]; omega), segs_length,
        show 105 * (r + 1) + k.val - 105 = 105 * r + k.val by omega, ih (by omega)]

theorem duration_wave (pl : Nat) (f : Frame) (n : Nat) : duration (wave pl f n) = sendTime pl f n := by
  induction n with
  | zero => simp [wave, duration, sendTime]
  | succ n ih =>
    rw [wave_succ, duration_append, ih, frameDuration, ← frameTime, sendTime, sendTime, Nat.succ_mul, Nat.add_comm]

/-- Settles O30: by the frames, one after the other. -/
theorem waveIsFramesBackToBack : Obligations.WaveIsFramesBackToBack := fun pl f n =>
  ⟨wave_length pl f n, fun _ k h => wave_get pl f k h, duration_wave pl f n⟩

/-! ### The primitive trace (spec/41_transmitter.md R65) -/

theorem primitiveTrace_segs (pin : PinId) (pl : Nat) (f : Frame) :
    primitiveTrace pin (segs pl f) =
      (List.range 52).flatMap (fun i =>
        [.writeDigital pin .high, .delayMicroseconds (if f.getLsbD (51 - i) then 1 * pl else 3 * pl),
         .writeDigital pin .low, .delayMicroseconds (2 * pl)]) ++
      [.writeDigital pin .low, .delayMicroseconds (9 * pl)] := by
  rw [segs_by_bits, primitiveTrace, List.flatMap_append, List.flatMap_assoc]
  rfl

/-- Settles O32: the trace of a frame, bit by bit, for each frame. -/
theorem primitiveTraceOfSend : Obligations.PrimitiveTraceOfSend := by
  intro pin pl f n
  refine ⟨rfl, ?_⟩
  rw [← primitiveTrace_segs]
  induction n with
  | zero => rfl
  | succ n ih => rw [wave_succ, List.replicate_succ, List.flatten_cons, ← ih, primitiveTrace, List.flatMap_append]; rfl

/-! ### The merged waveform (spec/41_transmitter.md R66) -/

/-- The two segments of bit `i` in the merged waveform: the LOW of the last bit has the stop in it. -/
def mergedBit (pl : Nat) (f : Frame) (i : Nat) : List Segment :=
  [highSegment pl (bitSent f i), { level := .low, dur := if i = 51 then 11 * pl else 2 * pl }]

/-- Segments that come in pairs, as a list by places. -/
theorem getElem?_flatMap_pair {α β : Type} (a b : α → β) (l : List α) (j : Nat) :
    (l.flatMap fun i => [a i, b i])[2 * j]? = l[j]?.map a ∧
      (l.flatMap fun i => [a i, b i])[2 * j + 1]? = l[j]?.map b := by
  induction l generalizing j with
  | nil => simp
  | cons x l ih =>
    cases j with
    | zero => simp
    | succ j => simpa [Nat.mul_succ] using ih j

/-- Bits alternate between the levels, so nothing merges within them. -/
theorem merged_bits (pl : Nat) (f : Frame) (l : List Nat) :
    merged (l.flatMap fun i => [highSegment pl (bitSent f i), lowSegment pl]) =
      l.flatMap fun i => [highSegment pl (bitSent f i), lowSegment pl] := by
  induction l with
  | nil => rfl
  | cons i l ih =>
    rw [List.flatMap_cons, merged_append, ih]
    · rfl
    · simp [lowSegment]
    · cases l <;> simp [highSegment]

/-- The last bit of a frame and the stop merge into two segments. -/
theorem merged_last_bit (pl : Nat) (f : Frame) :
    merged [highSegment pl (bitSent f 51), lowSegment pl, stopSegment pl] = mergedBit pl f 51 := by
  simp [merged, mergeOnto, mergedBit, highSegment, lowSegment, stopSegment]
  omega

theorem merged_segs (pl : Nat) (f : Frame) : merged (segs pl f) = (List.range 52).flatMap (mergedBit pl f) := by
  have hbits : (List.range 51).flatMap (mergedBit pl f) =
      (List.range 51).flatMap fun i => [highSegment pl (bitSent f i), lowSegment pl] := by
    refine List.flatMap_congr fun i hi => ?_
    rw [List.mem_range] at hi
    rw [mergedBit, if_neg (by omega), lowSegment]
  rw [segs_by_bits, List.range_succ, List.flatMap_append, List.flatMap_append, hbits, List.append_assoc,
    merged_append, merged_bits]
  · exact congrArg (_ ++ ·) (merged_last_bit pl f)
  · rw [List.range_succ, List.flatMap_append]
    simp [lowSegment]
  · simp [highSegment]

theorem segs_getLast? (pl : Nat) (f : Frame) : (segs pl f).getLast? = some (stopSegment pl) := by
  rw [segs_by_bits, List.getLast?_concat]

theorem segs_eq_cons (pl : Nat) (f : Frame) : segs pl f = highSegment pl (bitSent f 0) :: (segs pl f).drop 1 := rfl

theorem merged_wave (pl : Nat) (f : Frame) (n : Nat) :
    merged (wave pl f n) = (List.replicate n (merged (segs pl f))).flatten := by
  induction n with
  | zero => rfl
  | succ n ih =>
    rw [wave_succ, merged_append, ih, List.replicate_succ, List.flatten_cons]
    · simp [segs_getLast?, stopSegment]
    · cases n with
      | zero => simp [wave]
      | succ n => rw [wave_succ, segs_eq_cons]; simp [highSegment]

/-- Settles O31: the stop merges into the last LOW, and the HIGH that starts a frame only into a HIGH before it. -/
theorem mergedWaveform : Obligations.MergedWaveform := by
  intro pl f n d
  refine ⟨?length, fun i hi => ?bits, merged_wave pl f n, ?first⟩
  case length => simp [merged_segs, mergedBit, List.length_flatMap]
  case bits =>
    rw [merged_segs]
    obtain ⟨heven, hodd⟩ := getElem?_flatMap_pair (fun i => highSegment pl (bitSent f i))
      (fun i => { level := .low, dur := if i = 51 then 11 * pl else 2 * pl }) (List.range 52) i
    rw [List.getElem?_range hi] at heven hodd
    exact ⟨heven, hodd⟩
  case first =>
    have hhead : merged (wave pl f (n + 1)) = highSegment pl (bitSent f 0) :: (merged (wave pl f (n + 1))).tail := by
      rw [merged_wave, merged_segs, List.replicate_succ]
      rfl
    rw [merged_cons, hhead]
    rfl

/-! ### One sample a microsecond (log 24) -/

/-- A waveform as a recorder takes it down, one segment a microsecond. -/
def unitSamples (w : List Segment) : List Segment :=
  w.flatMap fun g => List.replicate g.dur { level := g.level, dur := 1 }

theorem mergeOnto_mergeOnto (l : Level) (a b : Nat) (w : List Segment) :
    mergeOnto { level := l, dur := a } (mergeOnto { level := l, dur := b } w) =
      mergeOnto { level := l, dur := a + b } w := by
  cases w with
  | nil => simp [mergeOnto]
  | cons r w => by_cases h : l = r.level <;> simp [mergeOnto, h, Nat.add_assoc]

theorem merged_replicate_append (l : Level) (d : Nat) (w : List Segment) :
    merged (List.replicate (d + 1) { level := l, dur := 1 } ++ w) =
      mergeOnto { level := l, dur := d + 1 } (merged w) := by
  induction d with
  | zero => rfl
  | succ d ih => rw [List.replicate_succ, List.cons_append, merged_cons, ih, mergeOnto_mergeOnto, Nat.add_comm]

/-- Samples merge into what the waveform itself merges into. -/
theorem merged_unitSamples {w : List Segment} (h : ∀ g ∈ w, 1 ≤ g.dur) : merged (unitSamples w) = merged w := by
  induction w with
  | nil => rfl
  | cons g w ih =>
    obtain ⟨hg, hw⟩ := List.forall_mem_cons.mp h
    obtain ⟨d, hd⟩ := Nat.exists_eq_add_of_le' hg
    rw [unitSamples, List.flatMap_cons, ← unitSamples, hd, merged_replicate_append, ih hw, merged_cons, ← hd]

/-! ### A microsecond later (spec/41_transmitter.md R63) -/

/-- What is left of a waveform when its first microsecond has passed. -/
def elapse : List Segment → List Segment
  | []     => []
  | g :: w => if g.dur ≤ 1 then w else { g with dur := g.dur - 1 } :: w

theorem elapse_of_le_one {g : Segment} {w : List Segment} (h : g.dur ≤ 1) : elapse (g :: w) = w := if_pos h

theorem elapse_of_two_le {g : Segment} {w : List Segment} (h : 2 ≤ g.dur) :
    elapse (g :: w) = { g with dur := g.dur - 1 } :: w := if_neg (by omega)

theorem elapse_pos {w : List Segment} (h : ∀ g ∈ w, 1 ≤ g.dur) : ∀ g ∈ elapse w, 1 ≤ g.dur := by
  cases w with
  | nil => exact h
  | cons g w =>
    obtain ⟨hg, hw⟩ := List.forall_mem_cons.mp h
    by_cases h1 : g.dur ≤ 1
    · rwa [elapse_of_le_one h1]
    · rw [elapse_of_two_le (by omega)]
      exact List.forall_mem_cons.mpr ⟨by simp; omega, hw⟩

theorem duration_elapse {w : List Segment} (h : ∀ g ∈ w, 1 ≤ g.dur) : duration (elapse w) = duration w - 1 := by
  cases w with
  | nil => rfl
  | cons g w =>
    have hg := (List.forall_mem_cons.mp h).1
    rw [duration_cons]
    by_cases h1 : g.dur ≤ 1
    · rw [elapse_of_le_one h1]; omega
    · rw [elapse_of_two_le (by omega), duration_cons]; simp; omega

theorem levelAt_elapse {w : List Segment} (h : ∀ g ∈ w, 1 ≤ g.dur) (u : Nat) :
    levelAt (elapse w) u = levelAt w (u + 1) := by
  cases w with
  | nil => rfl
  | cons g w =>
    have hg := (List.forall_mem_cons.mp h).1
    by_cases h1 : g.dur ≤ 1
    · have hone : g.dur = 1 := by omega
      simp [elapse_of_le_one h1, levelAt, hone]
    · rw [elapse_of_two_le (by omega), levelAt, levelAt]
      simp only [show u < g.dur - 1 ↔ u + 1 < g.dur by omega, show u - (g.dur - 1) = u + 1 - g.dur by omega]

theorem unitSamples_elapse {g : Segment} (w : List Segment) (h : 1 ≤ g.dur) :
    unitSamples (g :: w) = { level := g.level, dur := 1 } :: unitSamples (elapse (g :: w)) := by
  obtain ⟨d, hd⟩ := Nat.exists_eq_add_of_le' h
  rw [unitSamples, List.flatMap_cons, ← unitSamples, hd, List.replicate_succ, List.cons_append]
  cases d with
  | zero => rw [elapse_of_le_one (by omega)]; rfl
  | succ d => rw [elapse_of_two_le (by omega), hd]; rfl

theorem iterate_elapse_pos {w : List Segment} (h : ∀ g ∈ w, 1 ≤ g.dur) (u : Nat) :
    ∀ g ∈ elapse^[u] w, 1 ≤ g.dur := by
  induction u generalizing w with
  | zero => exact h
  | succ u ih => exact ih (elapse_pos h)

theorem duration_iterate_elapse {w : List Segment} (h : ∀ g ∈ w, 1 ≤ g.dur) (u : Nat) :
    duration (elapse^[u] w) = duration w - u := by
  induction u generalizing w with
  | zero => rfl
  | succ u ih => rw [Function.iterate_succ_apply, ih (elapse_pos h), duration_elapse h]; omega

theorem levelAt_iterate_elapse {w : List Segment} (h : ∀ g ∈ w, 1 ≤ g.dur) (u : Nat) :
    levelAt (elapse^[u] w) 0 = levelAt w u := by
  induction u generalizing w with
  | zero => rfl
  | succ u ih => rw [Function.iterate_succ_apply, ih (elapse_pos h), levelAt_elapse h]

theorem eq_nil_of_duration_zero {w : List Segment} (h : ∀ g ∈ w, 1 ≤ g.dur) (hd : duration w = 0) : w = [] := by
  cases w with
  | nil => rfl
  | cons g w =>
    have hg := (List.forall_mem_cons.mp h).1
    rw [duration_cons] at hd
    omega

/-- A waveform is over exactly when its duration has passed. -/
theorem iterate_elapse_eq_nil_iff {w : List Segment} (h : ∀ g ∈ w, 1 ≤ g.dur) (u : Nat) :
    elapse^[u] w = [] ↔ duration w ≤ u := by
  have hd := duration_iterate_elapse h u
  constructor
  · intro hnil
    have hzero : duration (elapse^[u] w) = 0 := by rw [hnil]; rfl
    omega
  · intro hle
    exact eq_nil_of_duration_zero (iterate_elapse_pos h u) (by omega)

theorem wave_pos {pl : Nat} (hpl : 0 < pl) (f : Frame) (n : Nat) : ∀ g ∈ wave pl f n, 1 ≤ g.dur := by
  intro g hg
  obtain ⟨w, hw, hg⟩ := List.mem_flatten.mp hg
  rw [List.eq_of_mem_replicate hw, segs, List.mem_ofFn] at hg
  obtain ⟨k, rfl⟩ := hg
  exact segmentAt_dur_pos pl f k hpl

end Sys2Proof.Machine
end

section
/-! PROOFS. SEND and the timing controller (spec/41_transmitter.md R61 to R64, R67): the command, the tick, and the
emission of the waveform, microsecond by microsecond. -/

namespace Sys2Proof.Machine

/-! ### The command (spec/41_transmitter.md R61) -/

theorem encode_send_eq : encode .send = wordOf 0x04 0 :=
  (wordOf_eq (by rw [encode_send_toNat, Nat.add_zero])).symm

/-- A frame begins with a 1, so its first segment is HIGH for 1×PL. -/
theorem segmentAt_frame_zero (pl : Nat) (d : Byte) (w : TempWord) (h : Byte) :
    segmentAt pl (frame d w h) 0 = { level := .high, dur := 1 * pl } := by
  obtain ⟨_, hones, _⟩ := frameBitsInOrderSent d w h 0
  rw [show segmentAt pl (frame d w h) 0 = highSegment pl (bitSent (frame d w h) 0) from rfl, hones (by omega)]
  rfl

theorem startSend_eq (s : State) : startSend s = { s with
    frameL := BitVec.ofNat 52
      (0xFF * 2 ^ 44 + s.devid.toNat * 2 ^ 32 + s.tempw.toNat * 2 ^ 16 + s.hum.toNat * 2 ^ 8 + 0xFF)
    busy := true
    rep := 0
    seg := 0
    pinLevel := .high
    cnt := 1 * s.cfg.pulseLength } := by
  rw [← frame_toNat, BitVec.ofNat_toNat, BitVec.setWidth_eq, startSend, startSegment, latchFrame]
  simp only [segmentAt_frame_zero]

/-- Settles O33: SEND's effect is `startSend`. -/
theorem sendLatchesFrameAndStarts : Obligations.SendLatchesFrameAndStarts := by
  refine ⟨by rw [← encode_send_eq, decode_encode], fun opd hlo hhi => ?_, ?_⟩
  · exact faultsAsIllegal_wordOf (by norm_num) hhi (.inr (.inr (.inr ⟨rfl, hlo⟩)))
  · rw [← funext startSend_eq]
    exact runsAs_effectOf .send

/-- Settles O34: by the acceptance checks, a faulted core does nothing, a busy one takes the fault, and a ready one
starts to send. -/
theorem sendFrameCondition : Obligations.SendFrameCondition := by
  intro s t ht
  rw [exec_eq] at ht
  cases ht
  obtain ⟨r, hf, e⟩ | ⟨hf, hb, e⟩ | ⟨hf, hb, e⟩ := accept_cases (encode .send) (effectOf .send) s <;> rw [e]
  · simp
  · simp [hf, hb]
  · simp [effectOf, hf, hb]

/-! ### The tick (spec/41_transmitter.md R64) -/

theorem tick_within_segment {s : State} (hf : s.fault = none) (hb : s.busy = true) (hc : 2 ≤ s.cnt) :
    tick s = .next (setCnt (s.cnt - 1) s) := by
  have h0 : s.cnt ≠ 0 := by omega
  have h1 : s.cnt - 1 ≠ 0 := by omega
  simp [tick, hf, hb, sequencerTick, h0, h1]

theorem tick_at_segment_end {s : State} (hf : s.fault = none) (hb : s.busy = true) (hc : s.cnt = 1) :
    tick s = .next (endSegment (setCnt 0 s)) := by
  simp [tick, hf, hb, sequencerTick, hc]

theorem tick_out_of_range {s : State} (hf : s.fault = none) (hb : s.busy = true) (hc : s.cnt = 0) :
    tick s = .fault .sequencerOutOfRange := by
  simp [tick, hf, hb, sequencerTick, hc]

theorem endSegment_of_lt {s : State} (h : s.seg.val < 104) (hr : s.rep ≠ s.repeatCount) :
    endSegment s = startSegment (setPosition ⟨s.seg.val + 1, by omega⟩ s.rep s) := by
  simp [endSegment, h, hr]

theorem endSegment_of_lt_of_rep_eq {s : State} (h : s.seg.val < 104) (hr : s.rep = s.repeatCount) :
    endSegment s = endSend (setPosition ⟨s.seg.val + 1, by omega⟩ s.rep s) := by
  simp [endSegment, h, hr]

theorem endSegment_of_stop {s : State} (h : s.seg.val = 104) (hr : s.rep + 1 ≠ s.repeatCount) :
    endSegment s = startSegment (setPosition 0 (s.rep + 1) s) := by
  simp [endSegment, h, hr]

theorem endSegment_of_last_stop {s : State} (h : s.seg.val = 104) (hr : s.rep + 1 = s.repeatCount) :
    endSegment s = endSend (setPosition 0 (s.rep + 1) s) := by
  simp [endSegment, h, hr]

/-! ### A step without a command (log 1) -/

theorem step_of_no_input {s : State} (hi : s.inputs = []) : step s = tick s := by
  rw [step, takeInput, hi]

theorem step_of_wait {s : State} {rest : List HostInput} (hi : s.inputs = HostInput.wait :: rest) :
    step s = tick (setInputs rest s) := by
  rw [step, takeInput, hi]
  rfl

/-- Settles O35: the count says whether the segment ends, and the position what follows it. -/
theorem timingControllerTick : Obligations.TimingControllerTick := by
  intro s
  refine ⟨step_of_no_input, fun rest => step_of_wait, fun hf hb => ⟨tick_within_segment hf hb, fun hc h hr => ?next,
    fun hc h hr => ?frame, fun hc h hr => ?last, fun hc h hr => ?past, tick_out_of_range hf hb⟩⟩
  all_goals rw [tick_at_segment_end hf hb hc]
  case next => exact congrArg _ (endSegment_of_lt (s := setCnt 0 s) h hr)
  case frame => exact congrArg _ (endSegment_of_stop (s := setCnt 0 s) h hr)
  case last => exact congrArg _ (endSegment_of_last_stop (s := setCnt 0 s) h hr)
  case past => exact congrArg _ (endSegment_of_lt_of_rep_eq (s := setCnt 0 s) h hr)

/-! ### What a SEND writes (spec/41_transmitter.md R61, R67) -/

/-- `t` is `s` but for what a SEND may write, at its acceptance and in the microseconds after it: the pin, `BUSY` and
the sequencer; and for the host's inputs, which it takes. -/
inductive SendWrites (s : State) : State → Prop where
  | intro (l : Level) (b : Bool) (r : Nat) (k : Fin 105) (c : Nat) (f : Frame) (i : List HostInput) :
      SendWrites s { s with pinLevel := l, busy := b, rep := r, seg := k, cnt := c, frameL := f, inputs := i }

theorem SendWrites.refl (s : State) : SendWrites s s := .intro _ _ _ _ _ _ _

theorem SendWrites.trans {s t u : State} (h : SendWrites s t) (h' : SendWrites t u) : SendWrites s u := by
  cases h
  cases h'
  exact .intro _ _ _ _ _ _ _

theorem sendWrites_startSend (s : State) : SendWrites s (startSend s) := .intro _ _ _ _ _ _ _

theorem sendWrites_setInputs (i : List HostInput) (s : State) : SendWrites s (setInputs i s) := .intro _ _ _ _ _ _ _

theorem sendWrites_endSegment (s : State) : SendWrites s (endSegment s) := by
  obtain ⟨_, _, _, ⟨_, e⟩ | ⟨_, e⟩⟩ := endSegment_cases s <;> rw [e] <;> exact .intro _ _ _ _ _ _ _

theorem sendWrites_of_tick {s t : State} (hf : s.fault = none) (h : tick s = .next t) : SendWrites s t := by
  obtain ⟨_, hr, _, _⟩ | ⟨_, hr, _, _⟩ | ⟨_, _, e⟩ | ⟨_, _, _, e⟩ | ⟨_, _, _, e⟩ | ⟨_, _, _, e⟩ := tick_cases s
  · rw [hf] at hr; cases hr
  · rw [hf] at hr; cases hr
  · rw [e] at h; cases h; exact .refl s
  · rw [e] at h; cases h
  · rw [e] at h; cases h; exact .trans (.intro _ _ _ _ _ _ _) (sendWrites_endSegment (setCnt 0 s))
  · rw [e] at h; cases h; exact .intro _ _ _ _ _ _ _

/-! ### What is left to emit (spec/41_transmitter.md R63) -/

/-- What is left of a SEND from segment `k` of its present frame on. -/
def restOfWave (s : State) (k : Nat) : List Segment :=
  (segs s.cfg.pulseLength s.frameL).drop k ++ wave s.cfg.pulseLength s.frameL (s.repeatCount - (s.rep + 1))

theorem restOfWave_zero {s : State} (h : s.rep < s.repeatCount) :
    restOfWave s 0 = wave s.cfg.pulseLength s.frameL (s.repeatCount - s.rep) := by
  rw [restOfWave, List.drop_zero, ← wave_succ, show s.repeatCount - (s.rep + 1) + 1 = s.repeatCount - s.rep by omega]

theorem restOfWave_after_stop (s : State) :
    restOfWave s (104 + 1) = wave s.cfg.pulseLength s.frameL (s.repeatCount - (s.rep + 1)) := by
  rw [restOfWave, List.drop_of_length_le (segs_length _ _).le, List.nil_append]

/-- The core shows the waveform `w` from now on, if the host presents nothing: it is idle with the pin LOW and `w` is
empty, or it is within a SEND and `w` is what is left of the segment in progress and the segments after that. -/
inductive Emits (s : State) : List Segment → Prop where
  | idle (hf : s.fault = none) (hb : s.busy = false) (hlow : s.pinLevel = .low) : Emits s []
  | sending (hf : s.fault = none) (hb : s.busy = true) (hpl : 0 < s.cfg.pulseLength) (hrep : s.rep < s.repeatCount)
      (hcnt : 1 ≤ s.cnt) (hpin : s.pinLevel = (segmentAt s.cfg.pulseLength s.frameL s.seg).level) :
      Emits s ({ level := s.pinLevel, dur := s.cnt } :: restOfWave s (s.seg.val + 1))

theorem Emits.fault_eq {s : State} {w : List Segment} (h : Emits s w) : s.fault = none := by
  cases h <;> assumption

theorem Emits.of_nil {s : State} (h : Emits s []) : s.busy = false ∧ s.pinLevel = .low := by
  cases h with
  | idle _ hb hlow => exact ⟨hb, hlow⟩

/-- While something is left to emit the core is busy, and the pin has the level that comes first. -/
theorem Emits.of_ne_nil {s : State} {w : List Segment} (h : Emits s w) (hw : w ≠ []) :
    s.busy = true ∧ levelAt w 0 = some s.pinLevel := by
  cases h with
  | idle => exact absurd rfl hw
  | sending _ hb _ _ hcnt => exact ⟨hb, if_pos hcnt⟩

theorem Emits.setInputs {s : State} {w : List Segment} (h : Emits s w) (i : List HostInput) :
    Emits (setInputs i s) w := by
  cases h with
  | idle hf hb hlow => exact .idle hf hb hlow
  | sending hf hb hpl hrep hcnt hpin => exact .sending (s := Machine.setInputs i s) hf hb hpl hrep hcnt hpin

/-- At the start of a segment the whole segment is left, and all that comes after it. -/
theorem emits_startSegment {s : State} (hf : s.fault = none) (hb : s.busy = true) (hpl : 0 < s.cfg.pulseLength)
    (hrep : s.rep < s.repeatCount) : Emits (startSegment s) (restOfWave s s.seg.val) := by
  rw [restOfWave, segs_drop _ _ _ s.seg.isLt]
  exact .sending (s := startSegment s) hf hb hpl hrep (segmentAt_dur_pos _ _ _ hpl) rfl

/-- At the start of a frame that frame is left, and the frames after it. -/
theorem emits_startFrame {s : State} (hseg : s.seg = 0) (hf : s.fault = none) (hb : s.busy = true)
    (hpl : 0 < s.cfg.pulseLength) (hrep : s.rep < s.repeatCount) :
    Emits (startSegment s) (wave s.cfg.pulseLength s.frameL (s.repeatCount - s.rep)) := by
  have h := emits_startSegment hf hb hpl hrep
  rwa [hseg, Fin.val_zero, restOfWave_zero hrep] at h

theorem emits_startSend {s : State} (hf : s.fault = none) (hrep : 1 ≤ s.repeatCount) (hpl : 0 < s.cfg.pulseLength) :
    Emits (startSend s) (wave s.cfg.pulseLength (frame s.devid s.tempw s.hum) s.repeatCount) :=
  emits_startFrame (s := latchFrame s) rfl hf rfl hpl hrep

/-- The end of a segment: what comes after it is left. -/
theorem emits_endSegment {s : State} (hf : s.fault = none) (hb : s.busy = true) (hpl : 0 < s.cfg.pulseLength)
    (hrep : s.rep < s.repeatCount) (hpin : s.pinLevel = (segmentAt s.cfg.pulseLength s.frameL s.seg).level) :
    Emits (endSegment s) (restOfWave s (s.seg.val + 1)) := by
  by_cases hseg : s.seg.val < 104
  · rw [endSegment_of_lt hseg (by omega)]
    exact emits_startSegment (s := setPosition ⟨s.seg.val + 1, by omega⟩ s.rep s) hf hb hpl hrep
  · have hstop : s.seg.val = 104 := by have := s.seg.isLt; omega
    rw [hstop, restOfWave_after_stop]
    by_cases hlast : s.rep + 1 = s.repeatCount
    · rw [endSegment_of_last_stop hstop hlast, hlast, Nat.sub_self]
      refine .idle hf rfl (hpin.trans ?_)
      rw [segmentAt, if_pos hstop, stopSegment]
    · rw [endSegment_of_stop hstop hlast]
      exact emits_startFrame (s := setPosition 0 (s.rep + 1) s) rfl hf hb hpl (show s.rep + 1 < s.repeatCount by omega)

/-- A microsecond passes, and the first microsecond of the waveform is over. -/
theorem Emits.tick {s : State} {w : List Segment} (h : Emits s w) :
    ∃ t, tick s = .next t ∧ Emits t (elapse w) ∧ SendWrites s t ∧ t.inputs = s.inputs := by
  suffices hnext : ∃ t, Machine.tick s = .next t ∧ Emits t (elapse w) by
    obtain ⟨t, ht, he⟩ := hnext
    obtain ⟨_, _, _, _, _, _, _, _, _, hinputs⟩ := tick_keeps s t ht
    exact ⟨t, ht, he, sendWrites_of_tick h.fault_eq ht, hinputs⟩
  cases h with
  | idle hf hb hlow => exact ⟨s, tick_of_idle hf hb, .idle hf hb hlow⟩
  | sending hf hb hpl hrep hcnt hpin =>
    by_cases hc : s.cnt = 1
    · rw [elapse_of_le_one hc.le]
      exact ⟨_, tick_at_segment_end hf hb hc, emits_endSegment (s := setCnt 0 s) hf hb hpl hrep hpin⟩
    · have h2 : 2 ≤ s.cnt := by omega
      rw [elapse_of_two_le h2]
      exact ⟨_, tick_within_segment hf hb h2, .sending (s := setCnt (s.cnt - 1) s) hf hb hpl hrep
        (show 1 ≤ s.cnt - 1 by omega) hpin⟩

/-! ### While the host presents nothing

The host waits for `m` microseconds and then goes on with `rest`; it presents nothing for `u` microseconds when `u ≤ m`,
and for ever when `rest` is empty. -/

theorem step_while_waiting {s : State} {m : Nat} {rest : List HostInput}
    (hi : s.inputs = List.replicate m HostInput.wait ++ rest) (hw : 1 ≤ m ∨ rest = []) :
    step s = tick (setInputs (List.replicate (m - 1) HostInput.wait ++ rest) s) := by
  cases m with
  | succ m => exact step_of_wait hi
  | zero =>
    have hrest : rest = [] := by simpa using hw
    subst hrest
    rw [step_of_no_input hi, show setInputs (List.replicate (0 - 1) HostInput.wait ++ []) s = s by
      rw [← show s.inputs = _ from hi]; rfl]

theorem record_while_waiting {s : State} {m : Nat} {rest : List HostInput}
    (hi : s.inputs = List.replicate m HostInput.wait ++ rest) (hw : 1 ≤ m ∨ rest = []) (a : List Segment) :
    record s a = a ++ [{ level := s.pinLevel, dur := 1 }] := by
  cases m with
  | succ m => simp [record, takesReset, passesMicrosecond, hi, List.replicate_succ, HostInput.wait]
  | zero =>
    have hrest : rest = [] := by simpa using hw
    simp [record, takesReset, passesMicrosecond, hi, hrest]

theorem Emits.step {s : State} {w : List Segment} {m : Nat} {rest : List HostInput} (h : Emits s w)
    (hi : s.inputs = List.replicate m HostInput.wait ++ rest) (hw : 1 ≤ m ∨ rest = []) :
    ∃ t, step s = .next t ∧ Emits t (elapse w) ∧ SendWrites s t ∧
      t.inputs = List.replicate (m - 1) HostInput.wait ++ rest := by
  obtain ⟨t, ht, he, hwrites, hinputs⟩ := (h.setInputs (List.replicate (m - 1) HostInput.wait ++ rest)).tick
  exact ⟨t, by rw [step_while_waiting hi hw, ht], he, .trans (sendWrites_setInputs _ s) hwrites, hinputs⟩

/-- Microseconds pass, and that much of the waveform is over. -/
theorem Emits.runSteps {u : Nat} {rest : List HostInput} : ∀ {s : State} {w : List Segment} {m : Nat}, Emits s w →
    s.inputs = List.replicate m HostInput.wait ++ rest → (u ≤ m ∨ rest = []) →
    ∃ t, runSteps u s = .next t ∧ Emits t (elapse^[u] w) ∧ SendWrites s t ∧
      t.inputs = List.replicate (m - u) HostInput.wait ++ rest := by
  induction u with
  | zero => exact fun {s w m} h hi _ => ⟨s, rfl, h, .refl s, hi⟩
  | succ u ih =>
    intro s w m h hi hw
    obtain ⟨t, ht, he, hwrites, hinputs⟩ := h.step hi (hw.imp_left (by omega))
    obtain ⟨t', ht', he', hwrites', hinputs'⟩ := ih he hinputs (hw.imp_left (by omega))
    refine ⟨t', ?_, he', hwrites.trans hwrites', by rw [hinputs', Nat.sub_sub, Nat.add_comm]⟩
    rw [Machine.runSteps, ht]
    exact ht'

/-- An idle core holds every register while the host presents nothing (spec/60_exceptions.md R81). -/
theorem runSteps_of_idle {u : Nat} {rest : List HostInput} : ∀ {s : State} {m : Nat}, s.fault = none →
    s.busy = false → s.inputs = List.replicate m HostInput.wait ++ rest → (u ≤ m ∨ rest = []) →
    runSteps u s = .next (setInputs (List.replicate (m - u) HostInput.wait ++ rest) s) := by
  induction u with
  | zero =>
    intro s m _ _ hi _
    rw [Nat.sub_zero, ← hi]
    rfl
  | succ u ih =>
    intro s m hf hb hi hw
    have hstep := (step_while_waiting hi (hw.imp_left (by omega))).trans
      (tick_of_idle (s := setInputs (List.replicate (m - 1) HostInput.wait ++ rest) s) hf hb)
    have hrun := ih (s := setInputs (List.replicate (m - 1) HostInput.wait ++ rest) s) hf hb rfl
      (hw.imp_left (by omega))
    rw [runSteps, hstep, Nat.add_comm u 1, ← Nat.sub_sub]
    exact hrun

/-- A recorder takes down the waveform that the core shows, one sample a microsecond. -/
theorem Emits.pinSamples {u : Nat} {rest : List HostInput} : ∀ {s : State} {w : List Segment} {m : Nat}
    (a : List Segment), Emits s w → (∀ g ∈ w, 1 ≤ g.dur) → s.inputs = List.replicate m HostInput.wait ++ rest →
    (u ≤ m ∨ rest = []) → duration w = u → pinSamples u s a = a ++ unitSamples w := by
  induction u with
  | zero =>
    intro s w m a _ hpos _ _ hu
    rw [eq_nil_of_duration_zero hpos hu]
    simp [Machine.pinSamples, unitSamples]
  | succ u ih =>
    intro s w m a h hpos hi hw hu
    have hw1 : 1 ≤ m ∨ rest = [] := hw.imp_left (by omega)
    obtain ⟨t, ht, he, _, hinputs⟩ := h.step hi hw1
    have hrest := ih (record s a) he (elapse_pos hpos) hinputs (hw.imp_left (by omega))
      (by rw [duration_elapse hpos, hu, Nat.add_sub_cancel])
    rw [Machine.pinSamples, ht]
    refine hrest.trans ?_
    rw [record_while_waiting hi hw1, List.append_assoc]
    cases h with
    | idle => cases hu
    | sending _ _ _ _ hcnt => rw [unitSamples_elapse _ hcnt]; rfl

/-! ### The emission of a SEND (spec/41_transmitter.md R62, R63) -/

/-- A SEND `u` microseconds after its acceptance, while the host presents nothing. -/
theorem runSteps_startSend {s : State} {u m : Nat} {rest : List HostInput} (hf : s.fault = none)
    (hrep : 1 ≤ s.repeatCount) (hpl : 0 < s.cfg.pulseLength)
    (hi : s.inputs = List.replicate m HostInput.wait ++ rest) (hw : u ≤ m ∨ rest = []) :
    let f := frame s.devid s.tempw s.hum
    let tt := sendTime s.cfg.pulseLength f s.repeatCount
    ∃ t, runSteps u (startSend s) = .next t ∧ SendWrites s t ∧ t.fault = none ∧
      t.inputs = List.replicate (m - u) HostInput.wait ++ rest ∧
      (u < tt → t.busy = true ∧ levelAt (wave s.cfg.pulseLength f s.repeatCount) u = some t.pinLevel) ∧
      (tt ≤ u → t.busy = false ∧ t.pinLevel = .low) := by
  intro f tt
  have hpos := wave_pos hpl f s.repeatCount
  have hover := iterate_elapse_eq_nil_iff hpos u
  rw [duration_wave] at hover
  obtain ⟨t, ht, he, hwrites, hinputs⟩ := (emits_startSend hf hrep hpl).runSteps hi hw
  refine ⟨t, ht, (sendWrites_startSend s).trans hwrites, he.fault_eq, hinputs, fun hlt => ?_, fun hle => ?_⟩
  · rw [← levelAt_iterate_elapse hpos]
    exact he.of_ne_nil (fun hnil => absurd (hover.mp hnil) (Nat.not_le.mpr hlt))
  · rw [hover.mpr hle] at he
    exact he.of_nil

/-- Settles O36: up to `TT` by what is left to emit, and from then on by the idle core, which holds. -/
theorem pinFollowsWaveform : Obligations.PinFollowsWaveform := by
  intro s m rest hf hb hrep hpl hi f w tt hw
  refine ⟨startSend s, exec_of_ready .send hf hb, fun u hu => ?sending, ?idle⟩
  case sending =>
    obtain ⟨t, ht, _, hfault, _, hbusy, _⟩ :=
      runSteps_startSend (u := u) hf hrep hpl hi (hw.imp_left (by omega))
    exact ⟨t, ht, (hbusy hu).1, hfault, (hbusy hu).2⟩
  case idle =>
    obtain ⟨t, ht, hwrites, hfault, hinputs, _, hend⟩ := runSteps_startSend hf hrep hpl hi hw
    obtain ⟨hbusy, hlow⟩ := hend le_rfl
    refine ⟨t.rep, t.seg, t.cnt, t.frameL, fun v hv => ?_⟩
    rw [runSteps_add _ _ _ _ ht, runSteps_of_idle hfault hbusy hinputs (hv.imp_left (by omega)), Nat.sub_sub]
    cases hwrites
    cases hbusy
    cases hlow
    rfl

/-! ### A command after a SEND (spec/41_transmitter.md R64) -/

theorem step_of_present {s : State} {cw : CmdWord} {i : Instr} {rest : List HostInput}
    (hi : s.inputs = HostInput.present cw :: rest) (hd : decode cw = .ok i) : step s = exec i (setInputs rest s) := by
  rw [step, takeInput, hi]
  simp only [deliver, HostInput.present, present, hd]

/-- Settles O58: at `n < TT` the command finds a busy core, and at `TT` an idle one. -/
theorem busyWindowOfSend : Obligations.BusyWindowOfSend := by
  intro s n cw i rest hf hb hrep hpl hd hi tt
  obtain ⟨u, hu, _, hfault, hinputs, hbusy, hend⟩ := runSteps_startSend hf hrep hpl hi (.inl le_rfl)
  rw [Nat.sub_self, List.replicate_zero, List.nil_append] at hinputs
  have hstep := step_of_present hinputs hd
  refine ⟨startSend s, exec_of_ready .send hf hb, fun hlt => ?busy, fun heq => ?idle⟩
  case busy =>
    refine ⟨raiseFault .commandWhileBusy cw (setInputs rest u), ?_, raiseFault_fault _ _ _⟩
    rw [runSteps_add _ _ _ _ hu, runSteps, hstep, exec_eq,
      accept_busy _ _ _ (by simpa using hfault) (by simpa using (hbusy hlt).1), encode_of_decode cw i hd]
    rfl
  case idle =>
    have hidle := (hend heq.ge).1
    have hexec := exec_of_ready i (s := setInputs rest u) hfault hidle
    exact ⟨u, _, hu, hidle, hinputs, hstep, hstep.trans hexec, by rw [effectOf_fault, setInputs_fault, hfault]⟩

/-! ### From the command word to the pin (spec/41_transmitter.md R66, R67; log 24) -/

/-- The word of a command, put where the next step takes its input, is the command that runs next (log 2). -/
theorem step_withFetchWord (s : State) (i : Instr) : step (s.withFetchWord 40 (encode i).toNat) = exec i s := by
  have hinputs : (s.withFetchWord 40 (encode i).toNat).inputs = HostInput.present (encode i) :: s.inputs := by
    rw [State.withFetchWord, pushWord, BitVec.ofNat_toNat, BitVec.setWidth_eq, setInputs_inputs]
  rw [step_of_present hinputs (decode_encode i)]
  rfl

/-- The whole run of a SEND word on a ready core to which the host presents nothing more. -/
theorem run_sendWord {s : State} (hf : s.fault = none) (hb : s.busy = false) (hi : s.inputs = [])
    (hrep : 1 ≤ s.repeatCount) (hpl : 0 < s.cfg.pulseLength) :
    let f := frame s.devid s.tempw s.hum
    let k := 1 + sendTime s.cfg.pulseLength f s.repeatCount
    ∃ t, runSteps k (s.withFetchWord 40 0x0400000000) = .next t ∧ SendWrites s t ∧ t.fault = none ∧ t.busy = false ∧
      t.inputs = [] ∧
      observed k (s.withFetchWord 40 0x0400000000) = merged (wave s.cfg.pulseLength f s.repeatCount) := by
  intro f k
  have hstep : step (s.withFetchWord 40 0x0400000000) = .next (startSend s) :=
    (step_withFetchWord s .send).trans (exec_of_ready .send hf hb)
  have hfirst : runSteps 1 (s.withFetchWord 40 0x0400000000) = .next (startSend s) := by rw [runSteps, hstep]; rfl
  have hrecord : pinSamples 1 (s.withFetchWord 40 0x0400000000) [] = [] := by rw [pinSamples, hstep]; rfl
  obtain ⟨t, ht, hwrites, hfault, hinputs, _, hend⟩ := runSteps_startSend (m := 0) hf hrep hpl hi (.inr rfl)
  have hpos := wave_pos hpl f s.repeatCount
  refine ⟨t, by rw [runSteps_add _ _ _ _ hfirst, ht], hwrites, hfault, (hend le_rfl).1, by simpa using hinputs, ?_⟩
  rw [observed, pinSamples_add _ _ _ _ _ hfirst, hrecord, (emits_startSend hf hrep hpl).pinSamples (m := 0) [] hpos hi
    (.inr rfl) (duration_wave _ _ _), List.nil_append, merged_unitSamples hpos]

/-- Settles O37: the run of a SEND word, which leaves the fields. -/
theorem sendWordShowsMergedWave : Obligations.SendWordShowsMergedWave := by
  intro s hf hb hi hrep hpl f k
  obtain ⟨t, ht, hwrites, hfault, hbusy, hinputs, hobserved⟩ := run_sendWord hf hb hi hrep hpl
  refine ⟨t, ht, by simp [ended, hfault, hbusy, hinputs], ?_⟩
  cases hwrites
  exact ⟨rfl, rfl, rfl, hobserved⟩

/-- Settles O38: the first run leaves what the waveform depends on, so the second one shows the same. -/
theorem secondSendRepeatsWaveform : Obligations.SecondSendRepeatsWaveform := by
  intro s hf hb hi hrep hpl k
  obtain ⟨t, ht, hwrites, hfault, hbusy, hinputs, hobserved⟩ := run_sendWord hf hb hi hrep hpl
  refine ⟨t, ht, ?_⟩
  cases hwrites
  obtain ⟨_, _, _, _, _, _, hagain⟩ := run_sendWord hfault hbusy hinputs hrep hpl
  exact hagain.trans hobserved.symm

end Sys2Proof.Machine
end

section
/-! PROOFS. Faults and the ports (spec/60_exceptions.md): the acceptance checks on a presented word, fault entry and the
fault state, what a step takes from the host, the idle core and the output ports. -/

namespace Sys2Proof.Machine

/-! ### A presented word and the acceptance checks (spec/60_exceptions.md R71) -/

theorem present_of_faulted (cw : CmdWord) {s : State} {r : FaultRecord} (hf : s.fault = some r) :
    present cw s = .next s := by
  obtain ⟨_, _, e⟩ | ⟨_, _, e⟩ := present_cases cw s <;> rw [e, accept_faulted _ _ _ r hf]

/-- The busy check comes before the decoding: the word is recorded, legal or not. -/
theorem present_of_busy (cw : CmdWord) {s : State} (hf : s.fault = none) (hb : s.busy = true) :
    present cw s = .next (raiseFault .commandWhileBusy cw s) := by
  obtain ⟨i, hd, e⟩ | ⟨_, _, e⟩ := present_cases cw s <;> rw [e, accept_busy _ _ _ hf hb]
  rw [encode_of_decode cw i hd]

theorem present_encode (i : Instr) (s : State) : present (encode i) s = exec i s := by
  rw [present, decode_encode]

theorem decode_error_of_forall_encode_ne {cw : CmdWord} (h : ∀ i, encode i ≠ cw) : ∃ e, decode cw = .error e := by
  cases hd : decode cw with
  | ok i    => exact absurd (encode_of_decode cw i hd) (h i)
  | error e => exact ⟨e, rfl⟩

theorem present_goes_on (cw : CmdWord) (s : State) : ∃ t, present cw s = .next t := by
  obtain ⟨_, _, e⟩ | ⟨_, _, e⟩ := present_cases cw s <;> exact ⟨_, e⟩

/-- Settles O6: a faulted, a busy and a ready core, and for the last the words that are no command's and those that
are. -/
theorem acceptanceChecksInOrder : Obligations.AcceptanceChecksInOrder := by
  intro s cw
  refine ⟨fun r => present_of_faulted cw, fun hf hb => ?busy, fun hf hb hne => ?illegal, ?legal⟩
  case busy =>
    rw [present_of_busy cw hf hb, raiseFault_busy _ _ _ hb]
    rfl
  case illegal =>
    obtain ⟨e, he⟩ := decode_error_of_forall_encode_ne hne
    exact faultsAsIllegal_of_decode_error he s hf hb
  case legal =>
    rintro hf hb i rfl
    exact ⟨present_encode i s, effectOf i s, exec_of_ready i hf hb, by rw [effectOf_fault, hf]⟩

/-! ### Fault entry, and the microseconds after it (spec/60_exceptions.md R72) -/

theorem tick_of_commandWhileBusy {s : State} {r : FaultRecord} (hf : s.fault = some r)
    (hr : r.reason = .commandWhileBusy) : tick s = .next (drawPinAndBusy s) := by
  simp [tick, hf, hr]

/-- Settles O40: fault entry on an idle and on a busy core, and the tick that draws again. -/
theorem faultEntryIsPrecise : Obligations.FaultEntryIsPrecise := fun s reason cw =>
  ⟨raiseFault_fault reason cw s, raiseFault_idle reason cw s, raiseFault_busy reason cw s, fun hf =>
    ⟨drawPinAndBusy s, tick_of_commandWhileBusy hf rfl, rfl, rfl, rfl, rfl⟩⟩

/-! ### What a step takes from the host (spec/60_exceptions.md R77; log 1, log 2) -/

theorem step_of_reset {s : State} {x : HostInput} {rest : List HostInput} {c : Construct} (hi : s.inputs = x :: rest)
    (hr : x.rst = some c) : step s = resetWith c (setInputs rest s) := by
  rw [step, takeInput, hi]
  simp only [deliver, hr]

/-- Settles O4: an input with a word and no reset is the presentation of that word. -/
theorem stepRunsDecodedCommand : Obligations.StepRunsDecodedCommand := by
  intro s x rest cw i hi hr hc hd
  obtain ⟨rst, cmd⟩ := x
  cases hr
  cases hc
  exact step_of_present hi hd

/-- Settles O5: the placed word is the next input, and decodes to its command. -/
theorem fetchWordRunsCommand : Obligations.FetchWordRunsCommand := step_withFetchWord

/-! ### The fault state (spec/60_exceptions.md R69, R70, R73) -/

/-- Settles O41: of all that a step can do, only the two faulting outcomes of the acceptance checks set `FAULT`. -/
theorem faultOnlyByMisuse : Obligations.FaultOnlyByMisuse := by
  refine ⟨rfl, rfl, fun s t r h hf ht => ?_⟩
  cases step_stepsTo h with
  | reset => cases ht
  | absorbed _ hsome => rw [hf] at hsome; cases hsome
  | whileBusy hp _ hb =>
    obtain ⟨x, hi, hr, hc⟩ := hp
    rw [raiseFault_fault] at ht
    cases ht
    exact ⟨x, _, hi, hr, hc, fun _ => rfl, by simp [hb]⟩
  | illegal hp _ hb hd =>
    obtain ⟨x, hi, hr, hc⟩ := hp
    cases ht
    exact ⟨x, _, hi, hr, hc, by simp [hb], fun _ => ⟨rfl, illegal_of_decode_error _ _ hd⟩⟩
  | accepted => simp [hf] at ht
  | ticks _ htick =>
    obtain ⟨_, _, _, _, _, _, _, hfault, _, _⟩ := tick_keeps _ t htick
    rw [hfault, setInputs_fault, hf] at ht
    cases ht

/-- A step of a faulted core is a reset, the absorption of a word, or a tick. -/
theorem StepsTo.faulted_cases {s t : State} {r : FaultRecord} (h : StepsTo s t) (hf : s.fault = some r) :
    (∃ x rest c, s.inputs = x :: rest ∧ x.rst = some c ∧ t = constructed c (setInputs rest s)) ∨
    (∃ rest, t = setInputs rest s) ∨
    tick (setInputs s.inputs.tail s) = .next t := by
  cases h with
  | reset hi hr => exact .inl ⟨_, _, _, hi, hr, rfl⟩
  | absorbed => exact .inr (.inl ⟨_, rfl⟩)
  | whileBusy _ hnone | illegal _ hnone | accepted _ hnone => rw [hf] at hnone; cases hnone
  | ticks _ ht => exact .inr (.inr ht)

/-- Settles O42: a faulted core absorbs the words, and neither that nor a tick writes `FAULT`, a field or the
configuration. -/
theorem faultStaysUntilReset : Obligations.FaultStaysUntilReset := by
  intro s t r hf
  refine ⟨fun cw => present_of_faulted cw hf, by simp [ended, hf], fun h hnone => ?stays,
    fun x rest c hi hr h => ?reset⟩
  case stays =>
    obtain ⟨x, rest, c, hi, hr, _⟩ | ⟨rest, rfl⟩ | ht := (step_stepsTo h).faulted_cases hf
    · rw [hnone x rest hi] at hr
      cases hr
    · simp [hf]
    · obtain ⟨hdevid, hhum, htemp, hrep, hpin, hdir, _, hfault, hcfg, _⟩ := tick_keeps _ t ht
      exact ⟨hfault.trans hf, hdevid, hhum, htemp, hrep, hpin, hdir, hcfg⟩
  case reset =>
    rw [step_of_reset hi hr] at h
    rw [eq_constructed_of_resetWith h, constructed_fault]

/-! ### The steps that stop the model (spec/60_exceptions.md R69, spec/70_reset_and_hazards.md R83) -/

/-- A tick stops the model only outside the range of `CNT` (log 12). -/
theorem tick_goes_on {s : State} (h : s.fault = none → s.busy = true → 1 ≤ s.cnt) : ∃ t, tick s = .next t := by
  obtain ⟨_, _, _, e⟩ | ⟨_, _, _, e⟩ | ⟨_, _, e⟩ | ⟨hf, hb, hc, _⟩ | ⟨_, _, _, e⟩ | ⟨_, _, _, e⟩ :=
    tick_cases s
  case inr.inr.inr.inl => exact absurd (h hf hb) (by omega)
  all_goals exact ⟨_, e⟩

/-- Settles O50: under the invariant every tick goes on, every presented word does, and a reset does with a legal
count. -/
theorem stepAlwaysGoesOn : Obligations.StepAlwaysGoesOn := by
  intro s hs
  have hcnt : s.fault = none → s.busy = true → 1 ≤ s.cnt := fun hf hb => (hs.sending hf hb).cntPos
  obtain ⟨_, e⟩ | ⟨x, rest, hi, ⟨c, hr, e⟩ | ⟨_, cw, _, e⟩ | ⟨_, _, e⟩⟩ := step_cases s <;> rw [e]
  · exact .inl (tick_goes_on hcnt)
  · obtain ⟨_, e⟩ | ⟨hwf, e⟩ := resetWith_cases c (setInputs rest s)
    · exact .inl ⟨_, e⟩
    · exact .inr ⟨x, rest, c, hi, hr, hwf, e⟩
  · exact .inl (present_goes_on cw _)
  · exact .inl (tick_goes_on (s := setInputs rest s) hcnt)

/-! ### The idle core and the output ports (spec/60_exceptions.md R77, R81) -/

/-- Settles O39: without an input and with a wait the step is the tick of an idle core. -/
theorem idleCoreHolds : Obligations.IdleCoreHolds := by
  intro s hf hb
  refine ⟨fun hi => ?_, fun rest hi => ?_⟩
  · rw [step_of_no_input hi, tick_of_idle hf hb]
  · rw [step_of_wait hi, tick_of_idle (s := setInputs rest s) hf hb]
    rfl

/-- Settles O55: `PIN_DIR` is OUTPUT under the invariant. -/
theorem outputPortsShowStatus : Obligations.OutputPortsShowStatus := by
  intro s hs
  simp [outPorts, hs.pinOutput]

end Sys2Proof.Machine
end

section
/-! PROOFS. Reset, the host's duty and the end of a run (spec/70_reset_and_hazards.md): what a reset writes and refuses,
a host that keeps its duty, and a whole run from its reset to its result. -/

namespace Sys2Proof.Machine

/-! ### Reset (spec/70_reset_and_hazards.md R82 to R84) -/

theorem construct_wf_iff {c : Construct} {repeatMax : Nat} : c.wf repeatMax = true ↔ 1 ≤ c.n ∧ c.n ≤ repeatMax := by
  simp [Construct.wf]

section
variable {s : State} {x : HostInput} {rest : List HostInput} {c : Construct}

theorem step_of_legal_reset (hi : s.inputs = x :: rest) (hr : x.rst = some c) (hlo : 1 ≤ c.n)
    (hhi : c.n ≤ s.cfg.repeatMax) : step s = .next (constructed c (setInputs rest s)) := by
  rw [step_of_reset hi hr, resetWith, setInputs_cfg, if_pos (construct_wf_iff.mpr ⟨hlo, hhi⟩)]

theorem step_of_illegal_reset (hi : s.inputs = x :: rest) (hr : x.rst = some c)
    (hn : c.n < 1 ∨ s.cfg.repeatMax < c.n) : step s = .refused (.illegalRepeatCount c.n) := by
  have hwf : ¬ c.wf s.cfg.repeatMax = true := fun h => by
    obtain ⟨hlo, hhi⟩ := construct_wf_iff.mp h
    omega
  rw [step_of_reset hi hr, resetWith, setInputs_cfg, if_neg hwf]

end

/-- Settles O43: the step is the reset, and every field but `REPEAT` (an integer made a natural) is as written. -/
theorem resetSetsEveryField : Obligations.ResetSetsEveryField := by
  intro s x rest c hi hr hlo hhi
  have hrep : (c.n.toNat : ℤ) = c.n := Int.toNat_of_nonneg (by omega)
  exact ⟨_, step_of_legal_reset hi hr hlo hhi, rfl, rfl, rfl, rfl, rfl, rfl, hrep, rfl, rfl, rfl, rfl, rfl⟩

/-- Settles O44: by the count. -/
theorem resetRefusesIllegalCount : Obligations.ResetRefusesIllegalCount := by
  intro s x rest c hi hr
  exact ⟨step_of_illegal_reset hi hr, fun hn => ⟨_, step_of_legal_reset hi hr (by omega) (by omega)⟩⟩

/-- A reset reads the parameters of the instance, the host's inputs and the draw counter, and nothing else. -/
theorem resetWith_congr {s t : State} (c : Construct) (hcfg : s.cfg = t.cfg) (hdraws : s.draws = t.draws)
    (hinputs : s.inputs = t.inputs) : resetWith c s = resetWith c t := by
  simp only [resetWith, constructed, hcfg, hdraws, hinputs]

/-- Settles O45: both steps take the same reset. -/
theorem nothingSurvivesReset : Obligations.NothingSurvivesReset := by
  intro s t x c hcfg hdraws hinputs hhead hr
  obtain ⟨rest, hi⟩ := List.head?_eq_some_iff.mp hhead
  rw [step_of_reset hi hr, step_of_reset (hinputs ▸ hi) hr]
  exact resetWith_congr c hcfg hdraws rfl

/-- Settles O47: `State.reset` is ready, and latches the frame of the zero fields. -/
theorem sendStraightAfterReset : Obligations.SendStraightAfterReset :=
  ⟨_, (step_withFetchWord State.reset .send).trans (exec_of_ready .send rfl rfl), rfl, by decide⟩

/-! ### The host's duty (spec/70_reset_and_hazards.md R86) -/

/-- The duty rules out what stops a step, a reset with an illegal count, and what faults the core, a command while busy
or an illegal word. -/
theorem dutiful_step {s : State} (hs : CoreInv s) (hf : s.fault = none) (hduty : KeepsDuty s) :
    ∃ t, step s = .next t ∧ t.fault = none := by
  obtain ⟨t, ht⟩ | ⟨x, rest, c, hi, hr, hwf, _⟩ := stepAlwaysGoesOn s hs
  case inr =>
    obtain ⟨hreset, _⟩ := hduty x rest hi
    rw [hreset c hr] at hwf
    cases hwf
  refine ⟨t, ht, Option.eq_none_iff_forall_ne_some.mpr fun r hr => ?_⟩
  obtain ⟨_, _, hmisuse⟩ := faultOnlyByMisuse
  obtain ⟨x, rest, hi, hrst, hcmd, _, hidle⟩ := hmisuse s t r ht hf hr
  obtain ⟨_, hcommand⟩ := hduty x rest hi
  obtain ⟨hlegal, hb, _⟩ := hcommand hrst r.cw hcmd
  obtain ⟨_, hillegal⟩ := hidle hb
  rw [hillegal] at hlegal
  cases hlegal

/-- Settles O51: by induction on the steps; each keeps the invariant and leaves the core without a fault. -/
theorem dutifulHostNeverFaults : Obligations.DutifulHostNeverFaults := by
  intro k
  induction k with
  | zero => exact fun s _ hf _ => ⟨s, rfl, hf⟩
  | succ k ih =>
    intro s hs hf hduty
    obtain ⟨hnow, hlater⟩ := hduty
    obtain ⟨t, ht, htf⟩ := dutiful_step hs hf hnow
    rw [runSteps, ht]
    exact ih t (stepKeepsInvariant s t hs ht) htf (hlater t ht)

/-! ### The end of a run (spec/70_reset_and_hazards.md R88) -/

theorem ended_iff {s : State} :
    ended s = true ↔ (∀ x ∈ s.inputs, x.cmd = none) ∧ s.busy = false ∧ s.fault = none := by
  simp [ended, and_assoc]

theorem takesReset_iff {s : State} : takesReset s = true ↔ ∃ x rest c, s.inputs = x :: rest ∧ x.rst = some c := by
  cases hi : s.inputs <;> simp [takesReset, hi, Option.isSome_iff_exists]

theorem runResult_of_takesReset_eq_false {s : State} (h : takesReset s = false) (k : Nat) : runResult k s = none := by
  simp [runResult, h]

theorem runResult_zero (s : State) : runResult 0 s = none := by
  simp [runResult]

theorem runResult_of_refused {s : State} {r : Refusal} (h : step s = .refused r) (k : Nat) : runResult k s = none := by
  cases k with
  | zero => exact runResult_zero s
  | succ k => simp [runResult, runSteps, h]

theorem runResult_of_ended {s t : State} {k : Nat} (hk : 0 < k) (hreset : takesReset s = true)
    (hrun : runSteps k s = .next t) (hend : ended t = true) :
    runResult k s = some
      { line := t.pin, waveform := observed k s, devid := t.devid, hum := t.hum, tempw := t.tempw } := by
  simp [runResult, hk, hreset, hrun, hend]

/-- Settles O60: `runResult` asks for a reset at the first step, and a refused one stops the run there. -/
theorem runEndsAfterLastCommand : Obligations.RunEndsAfterLastCommand := by
  refine fun s => ⟨ended_iff, fun hnone => ?_, runResult_zero s, fun x rest c hi hr hn => ?_⟩
  · refine runResult_of_takesReset_eq_false (Bool.eq_false_iff.mpr fun h => ?_)
    obtain ⟨x, rest, c, hi, hr⟩ := takesReset_iff.mp h
    rw [hnone x rest hi] at hr
    cases hr
  · exact runResult_of_refused (step_of_illegal_reset hi hr hn)

/-! ### A run and its record, part by part (spec/70_reset_and_hazards.md R88; log 24, log 27) -/

/-- `k` steps lead from `s` to `t`, and a recorder on the pin that had `a` at `s` has `b` at `t`. -/
def RunsTo (k : Nat) (s : State) (a : List Segment) (t : State) (b : List Segment) : Prop :=
  runSteps k s = .next t ∧ pinSamples k s a = b

theorem RunsTo.trans {k l : Nat} {s t u : State} {a b c : List Segment} (h : RunsTo k s a t b)
    (h' : RunsTo l t b u c) : RunsTo (k + l) s a u c := by
  obtain ⟨hrun, hrecord⟩ := h
  obtain ⟨hrun', hrecord'⟩ := h'
  exact ⟨(runSteps_add _ _ _ _ hrun).trans hrun', by rw [pinSamples_add _ _ _ _ _ hrun, hrecord, hrecord']⟩

theorem runsTo_of_step {s t : State} (a : List Segment) (h : step s = .next t) : RunsTo 1 s a t (record s a) := by
  rw [RunsTo, runSteps, pinSamples, h]
  exact ⟨rfl, rfl⟩

/-- A reset takes no time, and the record starts anew (log 27). -/
theorem runsTo_of_reset {s : State} {c : Construct} {rest : List HostInput} (a : List Segment)
    (hi : s.inputs = HostInput.reset c :: rest) (hlo : 1 ≤ c.n) (hhi : c.n ≤ s.cfg.repeatMax) :
    RunsTo 1 s a (constructed c (setInputs rest s)) [] := by
  have hrecord : record s a = [] := if_pos (takesReset_iff.mpr ⟨_, _, c, hi, rfl⟩)
  exact hrecord ▸ runsTo_of_step a (step_of_legal_reset hi rfl hlo hhi)

/-- A ready core runs the command that the host presents, which takes no time (spec/40_encoder.md R52; log 15). -/
theorem runsTo_of_present {s : State} {i : Instr} {rest : List HostInput} (a : List Segment)
    (hi : s.inputs = HostInput.present (encode i) :: rest) (hf : s.fault = none) (hb : s.busy = false) :
    RunsTo 1 s a (effectOf i (setInputs rest s)) a := by
  have hrecord : record s a = a := by simp [record, takesReset, passesMicrosecond, hi, HostInput.present]
  have hstep := (step_of_present hi (decode_encode i)).trans (exec_of_ready (s := setInputs rest s) i hf hb)
  simpa only [hrecord] using runsTo_of_step a hstep

/-- While an idle core waits, the recorder takes down the level that the pin holds. -/
theorem runsTo_of_idle {w : Nat} {rest : List HostInput} : ∀ {s : State} (a : List Segment), s.fault = none →
    s.busy = false → s.inputs = List.replicate w HostInput.wait ++ rest →
    RunsTo w s a (setInputs rest s) (a ++ List.replicate w { level := s.pinLevel, dur := 1 }) := by
  induction w with
  | zero =>
    intro s a _ _ hi
    obtain rfl : s.inputs = rest := hi
    exact ⟨rfl, (List.append_nil a).symm⟩
  | succ w ih =>
    intro s a hf hb hi
    let s' := setInputs (List.replicate w HostInput.wait ++ rest) s
    have hstep : step s = .next s' :=
      (step_while_waiting hi (.inl (by omega))).trans (tick_of_idle (s := s') hf hb)
    have hfirst := runsTo_of_step a hstep
    rw [record_while_waiting hi (.inl (by omega))] at hfirst
    have hrun := hfirst.trans (ih (s := s') _ hf hb rfl)
    rwa [Nat.add_comm, List.append_assoc] at hrun

/-- The three setters, one after the other, on a ready core. -/
theorem runsTo_of_setters {s : State} {id h : Byte} {t : Operand} {p : BitVec 1 × BitVec 11} {rest : List HostInput}
    (a : List Segment) (hf : s.fault = none) (hb : s.busy = false)
    (henc : encodeTemperature s.cfg.tempProduct t = some p)
    (hi : s.inputs = HostInput.present (encode (.setid id)) :: HostInput.present (encode (.sethum h)) ::
      HostInput.present (encode (.settemp t)) :: rest) :
    RunsTo 3 s a { s with devid := id, hum := clampHumidity h, tempw := packTemp p.1 p.2, inputs := rest } a := by
  have hrun := ((runsTo_of_present a hi hf hb).trans (runsTo_of_present a rfl hf hb)).trans
    (runsTo_of_present a rfl hf hb)
  simp only [effectOf] at hrun
  rwa [writeTemperature_of_some (p := p) (by exact henc)] at hrun

/-- The SEND and its whole waveform, when the host presents nothing after it: the run has ended, and what a SEND does
not write is as before. -/
theorem runsTo_of_send {s : State} {m : Nat} (a : List Segment) (hf : s.fault = none) (hb : s.busy = false)
    (hrep : 1 ≤ s.repeatCount) (hpl : 0 < s.cfg.pulseLength)
    (hi : s.inputs = HostInput.present (encode .send) :: List.replicate m HostInput.wait) :
    let f := frame s.devid s.tempw s.hum
    ∃ t, RunsTo (1 + sendTime s.cfg.pulseLength f s.repeatCount) s a t
        (a ++ unitSamples (wave s.cfg.pulseLength f s.repeatCount)) ∧ ended t = true ∧ SendWrites s t := by
  intro f
  let s' := setInputs (List.replicate m HostInput.wait) s
  have hi' : s'.inputs = List.replicate m HostInput.wait ++ [] := (List.append_nil _).symm
  obtain ⟨t, ht, hwrites, hfault, hinputs, _, hend⟩ :=
    runSteps_startSend (s := s') (u := sendTime s.cfg.pulseLength f s.repeatCount) hf hrep hpl hi' (.inr rfl)
  have hrecord := (emits_startSend (s := s') hf hrep hpl).pinSamples a (wave_pos hpl f _) hi' (.inr rfl)
    (duration_wave _ _ _)
  have hlast : ended t = true := by
    refine ended_iff.mpr ⟨fun x hx => ?_, (hend le_rfl).1, hfault⟩
    rw [hinputs, List.append_nil] at hx
    rw [List.eq_of_mem_replicate hx]
    rfl
  exact ⟨t, (runsTo_of_present a hi hf hb).trans ⟨ht, hrecord⟩, hlast, (sendWrites_setInputs _ s).trans hwrites⟩

/-- The three setters and the SEND, which sends what they have set. -/
theorem runsTo_of_setters_send {s : State} {id h : Byte} {t : Operand} {p : BitVec 1 × BitVec 11} {m : Nat}
    (a : List Segment) (hf : s.fault = none) (hb : s.busy = false) (hrep : 1 ≤ s.repeatCount)
    (hpl : 0 < s.cfg.pulseLength) (henc : encodeTemperature s.cfg.tempProduct t = some p)
    (hi : s.inputs = [HostInput.present (encode (.setid id)), HostInput.present (encode (.sethum h)),
      HostInput.present (encode (.settemp t)), HostInput.present (encode .send)] ++
      List.replicate m HostInput.wait) :
    let f := frame id (packTemp p.1 p.2) (clampHumidity h)
    ∃ u, RunsTo (4 + sendTime s.cfg.pulseLength f s.repeatCount) s a u
        (a ++ unitSamples (wave s.cfg.pulseLength f s.repeatCount)) ∧ ended u = true ∧
      SendWrites { s with devid := id, hum := clampHumidity h, tempw := packTemp p.1 p.2 } u := by
  intro f
  have hsetters := runsTo_of_setters a hf hb henc hi
  obtain ⟨u, hsend, hend, hwrites⟩ := runsTo_of_send (m := m)
    (s := setInputs (HostInput.present (encode .send) :: List.replicate m HostInput.wait)
      { s with devid := id, hum := clampHumidity h, tempw := packTemp p.1 p.2 }) a hf hb hrep hpl rfl
  have hrun := hsetters.trans hsend
  rw [← Nat.add_assoc] at hrun
  exact ⟨u, hrun, hend, (sendWrites_setInputs _ _).trans hwrites⟩

/-! ### From a reset to the result (spec/70_reset_and_hazards.md R88) -/

/-- The level `l` for `w` microseconds, as a waveform: none if `w` = 0. -/
def idleWave (l : Level) (w : Nat) : List Segment := if w = 0 then [] else [{ level := l, dur := w }]

theorem unitSamples_idleWave (l : Level) (w : Nat) :
    unitSamples (idleWave l w) = List.replicate w { level := l, dur := 1 } := by
  by_cases hw : w = 0 <;> simp [idleWave, unitSamples, hw]

theorem idleWave_pos (l : Level) (w : Nat) : ∀ g ∈ idleWave l w, 1 ≤ g.dur := by
  by_cases hw : w = 0
  · simp [idleWave, hw]
  · simpa [idleWave, hw] using Nat.one_le_iff_ne_zero.mpr hw

/-- Samples of an idle pin and then of a waveform merge into what the two waveforms merge into. -/
theorem merged_idle_samples_append {l : Level} {w : Nat} {v : List Segment} (hv : ∀ g ∈ v, 1 ≤ g.dur) :
    merged (List.replicate w { level := l, dur := 1 } ++ unitSamples v) = merged (idleWave l w ++ v) := by
  have hsamples : List.replicate w { level := l, dur := 1 } ++ unitSamples v = unitSamples (idleWave l w ++ v) := by
    rw [← unitSamples_idleWave, unitSamples, unitSamples, unitSamples, List.flatMap_append]
  rw [hsamples, merged_unitSamples (List.forall_mem_append.mpr ⟨idleWave_pos l w, hv⟩)]

/-- A legal reset and then a wait: the core is ready, and the recorder has the level drawn for the pin. -/
theorem runsTo_of_reset_wait {s : State} {c : Construct} {w : Nat} {rest : List HostInput} (a : List Segment)
    (hi : s.inputs = HostInput.reset c :: (List.replicate w HostInput.wait ++ rest)) (hlo : 1 ≤ c.n)
    (hhi : c.n ≤ s.cfg.repeatMax) :
    RunsTo (1 + w) s a (setInputs rest (constructed c s))
      (List.replicate w { level := Config.drawInitLevel s.draws, dur := 1 }) :=
  (runsTo_of_reset a hi hlo hhi).trans (runsTo_of_idle [] rfl rfl rfl)

/-- Settles O59: the run is the reset and the wait, then the three setters and the SEND with its waveform. -/
theorem runFromResetShowsMergedWave : Obligations.RunFromResetShowsMergedWave := by
  intro s c w m id h t sign mag hpl hlo hhi henc hi
  rw [← clampHumidity_eq_min]
  intro hum f idle
  rw [List.append_assoc] at hi
  have hrep := (construct_wf_range (construct_wf_iff.mpr ⟨hlo, hhi⟩)).1
  obtain ⟨u, hsend, hend, hwrites⟩ := runsTo_of_setters_send (s := setInputs _ (constructed c s))
    (List.replicate w { level := Config.drawInitLevel s.draws, dur := 1 }) rfl rfl hrep hpl henc rfl
  obtain ⟨hrun, hrecord⟩ : RunsTo (1 + w + 4 + sendTime s.cfg.pulseLength f c.n.toNat) s [] u
      (List.replicate w { level := Config.drawInitLevel s.draws, dur := 1 } ++
        unitSamples (wave s.cfg.pulseLength f c.n.toNat)) := by
    rw [Nat.add_assoc]
    exact (runsTo_of_reset_wait [] hi hlo hhi).trans hsend
  rw [runResult_of_ended (by omega) (takesReset_iff.mpr ⟨_, _, c, hi, rfl⟩) hrun hend, observed, hrecord,
    merged_idle_samples_append (wave_pos hpl f c.n.toNat)]
  cases hwrites
  rfl

end Sys2Proof.Machine
end
